-- ==== Sys2Proof/Word.lean ====
section
/-! DEFINITION. The widths of the block (spec/00_scope.md R6): bytes and 16-bit values as bit vectors. -/

namespace Sys2Proof

/-- A byte: 8 bits, unsigned, bit 7 most significant (R6). -/
abbrev Byte := BitVec 8

/-- A 16-bit value: a pulse width in microseconds, or the raw bits of a MOTOR or SERVO value (R22, R63). -/
abbrev Word16 := BitVec 16

/-- A 2-bit count, 0 .. 3: a payload length or the number of payload bytes collected (R20). -/
abbrev Count := BitVec 2

end Sys2Proof
end

