-- ==== Sys2Proof/Config.lean ====
section
/-! DEFINITION. The configuration record `Cfg` of spec/00_scope.md (R7), its well-formedness (R8), the reference
configuration of the test vectors (92_eei_decisions.md D9), and the one configuration of the machine, left open (R9). -/

namespace Sys2Proof

/-- The command classes (R7, R121). -/
inductive CmdClass where
  | motor | servo | lightsOn | lightsOff | masterOn | masterOff | sample | generic
  deriving DecidableEq, Repr

/-- `Entry(cls, len)` of the command table (R7). `len` has two bits, so R8's WF7 (0 .. 3) holds by its width (R84). -/
structure Entry where
  cls : CmdClass
  len : Count
  deriving DecidableEq, Repr

/-- The fields of R7, unchecked. `openRows` are the OPEN entries of `CMD_TABLE` only, opcodes strictly rising; the
entries R8 fixes (0x10, 0x31, 0xFF) are no rows of it: `Machine.table` answers for them (WF1 to WF3). -/
structure RawConfig where
  openRows     : List (Byte × Entry)
  nMotors      : Nat
  nServos      : Nat
  motorPwLow   : Word16
  motorPwHigh  : Word16
  servoPwLow   : Word16
  servoPwHigh  : Word16
  sampleLen    : Nat
  deriving DecidableEq, Repr

/-- Why a configuration is refused (R8). -/
inductive ConfigError where
  /-- a row gives 0x10, 0x31 or 0xFF an entry of its own (WF1, WF2, WF3) -/
  | fixedOpcode
  /-- a MOTOR or SERVO row whose length is not 3 (WF4) -/
  | actuatorLength
  /-- a LIGHTS or MASTER row whose length is not 0 (WF5) -/
  | relayLength
  /-- a SAMPLE row whose length is not SAMPLE_LEN (WF6) -/
  | sampleLength
  /-- N_MOTORS outside 3 .. 256 or N_SERVOS above 256 (R7, WF8) -/
  | collaboratorCount
  /-- a pulse-width range that is not LOW < HIGH (WF8) -/
  | pulseRange
  /-- SAMPLE_LEN is neither 0 nor 1 (R7) -/
  | sampleLenField
  /-- the rows are not strictly rising in their opcode: no canonical form of a function on bytes (R83) -/
  | rowOrder
  deriving DecidableEq, Repr

/-- WF1, WF2, WF3: no open row is one of the three byte values that R8 fixes. -/
def rowKeepsFixed (row : Byte × Entry) : Bool :=
  row.1 != 0x10#8 && row.1 != 0x31#8 && row.1 != 0xFF#8

/-- WF4. -/
def rowActuatorLen (row : Byte × Entry) : Bool :=
  match row.2.cls with
  | .motor | .servo => row.2.len == 3#2
  | .lightsOn | .lightsOff | .masterOn | .masterOff | .sample | .generic => true

/-- WF5. -/
def rowRelayLen (row : Byte × Entry) : Bool :=
  match row.2.cls with
  | .lightsOn | .lightsOff | .masterOn | .masterOff => row.2.len == 0#2
  | .motor | .servo | .sample | .generic => true

/-- WF6. -/
def rowSampleLen (sampleLen : Nat) (row : Byte × Entry) : Bool :=
  match row.2.cls with
  | .sample => row.2.len.toNat == sampleLen
  | .motor | .servo | .lightsOn | .lightsOff | .masterOn | .masterOff | .generic => true

/-- Opcodes strictly rising: each opcode has at most one row, and equal tables are equal lists (R83). -/
def rowsRising : List (Byte × Entry) → Bool
  | [] => true
  | [_] => true
  | a :: b :: rest => a.1.ult b.1 && rowsRising (b :: rest)

/-- The checks of R7 and R8 in order, each with the name of what breaks it. -/
def RawConfig.checks (r : RawConfig) : List (Bool × ConfigError) :=
  [ (r.openRows.all rowKeepsFixed, .fixedOpcode),
    (r.openRows.all rowActuatorLen, .actuatorLength),
    (r.openRows.all rowRelayLen, .relayLength),
    (r.openRows.all (rowSampleLen r.sampleLen), .sampleLength),
    (decide (3 ≤ r.nMotors ∧ r.nMotors ≤ 256 ∧ r.nServos ≤ 256), .collaboratorCount),
    (r.motorPwLow.ult r.motorPwHigh && r.servoPwLow.ult r.servoPwHigh, .pulseRange),
    (decide (r.sampleLen ≤ 1), .sampleLenField),
    (rowsRising r.openRows, .rowOrder) ]

/-- R8: a configuration is well formed only if every check holds. -/
def RawConfig.wf (r : RawConfig) : Bool := r.checks.all (·.1)

/-- The reference configuration `REF` of 92_eei_decisions.md D9: for the spec's test vectors only (R9). -/
def refRaw : RawConfig where
  openRows :=
    [ (0x20#8, ⟨.servo, 3#2⟩), (0x30#8, ⟨.lightsOff, 0#2⟩), (0x40#8, ⟨.masterOff, 0#2⟩), (0x41#8, ⟨.masterOn, 0#2⟩),
      (0x50#8, ⟨.sample, 1#2⟩), (0x60#8, ⟨.generic, 2#2⟩) ]
  nMotors := 4
  nServos := 2
  motorPwLow := 1000#16
  motorPwHigh := 2000#16
  servoPwLow := 600#16
  servoPwHigh := 2400#16
  sampleLen := 1

/-- A well-formed configuration: R8's "a model refuses a configuration that breaks one" by its type. (The two default
values only show Lean that the type has an element; nothing else uses them.) -/
structure Config where
  raw : RawConfig := refRaw
  ok  : raw.wf = true := by decide
  deriving DecidableEq, Repr, Inhabited

/-- R8: a configuration that breaks a condition is refused, by the name of the first one it breaks. -/
def Config.check (r : RawConfig) : Except ConfigError Config :=
  if h : r.wf = true then .ok ⟨r, h⟩
  else .error (((r.checks.find? (fun p => !p.1)).map (·.2)).getD .rowOrder)

/-- `REF` (D9), used by tests only. -/
def Config.ref : Config := ⟨refRaw, by decide⟩

/-- The configuration of the machine at hand: OPEN (R7, R9), fixed before reset (R174). It has no body, so no proof
can see which well-formed configuration it is (notes/assumptions/1.md). -/
opaque Config.deployed : Config

end Sys2Proof
end

