-- ==== Sys2Proof/Machine/CommandTable.lean ====
section
/-! DEFINITION. The command table (spec/40_command_table.md): opcode to class and payload length, read only. -/

namespace Sys2Proof.Machine

/-- The row of an opcode in a list of rows; each opcode has at most one (R83). -/
def lookupRow : List (Byte × Entry) → Byte → Option Entry
  | [], _ => none
  | (k, e) :: rest, b => if k = b then some e else lookupRow rest b

/-- `Table(b)` (R80): the entries fixed by R8 (WF1, WF2, WF3), every other byte from the open rows (R9). -/
def table (c : Config) (b : Byte) : Option Entry :=
  if b = 0x10#8 then some ⟨.motor, 3#2⟩
  else if b = 0x31#8 then some ⟨.lightsOn, 0#2⟩
  else if b = 0xFF#8 then none
  else lookupRow c.raw.openRows b

/-- `is_valid(b)` (R81). -/
def isValid (c : Config) (b : Byte) : Bool := (table c b).isSome

/-- `payload_length(b)` (R81); `none` is "unknown". -/
def payloadLength (c : Config) (b : Byte) : Option Count := (table c b).map Entry.len

/-- The class codes of R84 (D8). -/
def classCode : CmdClass → BitVec 3
  | .motor => 0#3
  | .servo => 1#3
  | .lightsOn => 2#3
  | .lightsOff => 3#3
  | .masterOn => 4#3
  | .masterOff => 5#3
  | .sample => 6#3
  | .generic => 7#3

/-- The class of a code: every one of the eight codes is a class (R84). -/
def classOfCode (k : BitVec 3) : CmdClass :=
  match k.toNat with
  | 0 => .motor
  | 1 => .servo
  | 2 => .lightsOn
  | 3 => .lightsOff
  | 4 => .masterOn
  | 5 => .masterOff
  | 6 => .sample
  | _ => .generic

/-- One 6-bit word `{valid, cls[2:0], len[1:0]}` of the table's read-only memory (R84, D8). DESIGN CHOICE: R84 says only
that the five bits beside `valid = 0` are ignored; this writes them 0 (notes/assumptions/14.md). Unsafe for a claim about
those bits; no step reads a word and no statement rests on them. -/
def romWord : Option Entry → BitVec 6
  | none => 0#6
  | some e => 1#1 ++ classCode e.cls ++ e.len

/-- The entry a 6-bit word stands for; with `valid = 0` the other five bits are ignored (R84). -/
def romEntry (w : BitVec 6) : Option Entry :=
  if w.extractLsb' 5 1 = 1#1 then some ⟨classOfCode (w.extractLsb' 2 3), w.extractLsb' 0 2⟩ else none

end Sys2Proof.Machine
end

