-- ==== Sys2Proof/Syntax.lean ====
section
/-! DEFINITION. The instructions: one constructor per row of spec/opcode_table.json. An instruction is one candidate
frame with the checksum byte it arrived with, right or wrong (R60, R96), or one unregistered byte (R91). -/

namespace Sys2Proof

/-- A payload of 0, 1, 2 or 3 bytes, first byte first (R6; the layouts F0, F1, F2, F3 of R62). -/
inductive Payload where
  | f0
  | f1 (p0 : Byte)
  | f2 (p0 p1 : Byte)
  | f3 (p0 p1 p2 : Byte)
  deriving DecidableEq, Repr

/-- The rows of the opcode table. `op` is the opcode byte (several opcodes may share a class, R83), `chk` the checksum
byte as received. -/
inductive Instr where
  /-- MOTOR (R123): format F3I; `raw` is the 16-bit throttle -/
  | motor (op idx : Byte) (raw : Word16) (chk : Byte)
  /-- SERVO (R124): format F3I; `raw` is the 16-bit value -/
  | servo (op idx : Byte) (raw : Word16) (chk : Byte)
  /-- LIGHTS_ON (R125): format F0 -/
  | lightsOn (op chk : Byte)
  /-- LIGHTS_OFF (R126): format F0 -/
  | lightsOff (op chk : Byte)
  /-- MASTER_ON (R127): format F0 -/
  | masterOn (op chk : Byte)
  /-- MASTER_OFF (R128): format F0 -/
  | masterOff (op chk : Byte)
  /-- SAMPLE (R129): format F0 when SAMPLE_LEN = 0, F1 with its argument when SAMPLE_LEN = 1 -/
  | sample (op : Byte) (arg : Option Byte) (chk : Byte)
  /-- GENERIC (R130): format F0, F1, F2 or F3 by its table length -/
  | generic (op : Byte) (payload : Payload) (chk : Byte)
  /-- (unregistered byte) (R91): one byte that is no opcode -/
  | unregisteredByte (b : Byte)
  deriving DecidableEq, Repr

end Sys2Proof
end

