-- ==== Sys2Proof/WellFormed.lean ====
section
/-! DEFINITION. Which instructions exist under a configuration: the opcode's table entry has the instruction's class
and its payload length (spec/30_encoding.md R62, R67, R69). The checksum byte may have any value (R66). -/

namespace Sys2Proof

/-- The payload length of a payload, in the two bits of `len` (R20). -/
def Payload.len : Payload → Count
  | .f0 => 0#2
  | .f1 _ => 1#2
  | .f2 _ _ => 2#2
  | .f3 _ _ _ => 3#2

/-- The instruction is one that `CMD_TABLE` gives (R69). -/
def Instr.wf (c : Config) : Instr → Bool
  | .motor op _ _ _ => Machine.table c op == some ⟨.motor, 3#2⟩
  | .servo op _ _ _ => Machine.table c op == some ⟨.servo, 3#2⟩
  | .lightsOn op _ => Machine.table c op == some ⟨.lightsOn, 0#2⟩
  | .lightsOff op _ => Machine.table c op == some ⟨.lightsOff, 0#2⟩
  | .masterOn op _ => Machine.table c op == some ⟨.masterOn, 0#2⟩
  | .masterOff op _ => Machine.table c op == some ⟨.masterOff, 0#2⟩
  | .sample op none _ => Machine.table c op == some ⟨.sample, 0#2⟩
  | .sample op (some _) _ => Machine.table c op == some ⟨.sample, 1#2⟩
  | .generic op p _ => Machine.table c op == some ⟨.generic, p.len⟩
  | .unregisteredByte b => Machine.table c b == none

end Sys2Proof
end

