-- ==== Sys2Proof/Machine/Flags.lean ====
section
/-! DEFINITION. The block has no status flags (spec/10_state.md R25). Its two conditions are combinational and stored
nowhere: the checksum comparison (spec/42_checksum.md) and the index range check (spec/43_dispatch.md R132). -/

namespace Sys2Proof.Machine

/-- `Chk(op, p0, ..)` (R110): the exclusive OR of the opcode and every payload byte. -/
def checksum (op : Byte) : Payload → Byte
  | .f0 => op
  | .f1 a => op ^^^ a
  | .f2 a b => op ^^^ a ^^^ b
  | .f3 a b d => op ^^^ a ^^^ b ^^^ d

/-- `ChecksumOK(acc, b)` (R111). -/
def checksumOK (acc b : Byte) : Bool := acc == b

/-- `InRange(idx, N)` (R132, D12): `zext_16(idx) < N`, unsigned, counting from 0. -/
def inRange (idx : Byte) (n : Nat) : Bool := decide ((idx.setWidth 16).toNat < n)

end Sys2Proof.Machine
end

