-- ==== Sys2Proof/Decode.lean ====
section
/-! DEFINITION. The frame decoder and encoder (spec/30_encoding.md): bytes in link order to one instruction, and back. -/

namespace Sys2Proof

/-- Why bytes are not yet, or never, an instruction. -/
inductive DecodeError where
  /-- no byte at all -/
  | noByte
  /-- an opcode whose frame has more bytes than are there (R60, R61) -/
  | incomplete (need : Count)
  /-- a table entry whose length is none of its class's formats (R62); no well-formed configuration has one (R8) -/
  | badEntry
  deriving DecidableEq, Repr

/-- `{a, b}` of two bytes, `a` the high byte: the byte order of a MOTOR or SERVO value (R43, R63). -/
def joinBytes (a b : Byte) : Word16 := a ++ b

/-- `val[15:8]`, the byte that travels first (R62, R63). -/
def highByte (w : Word16) : Byte := w.extractLsb' 8 8

/-- `val[7:0]` (R62, R63). -/
def lowByte (w : Word16) : Byte := w.extractLsb' 0 8

/-- The payload's bytes in link order (R42). -/
def Payload.bytes : Payload → List Byte
  | .f0 => []
  | .f1 a => [a]
  | .f2 a b => [a, b]
  | .f3 a b d => [a, b, d]

/-- The next `n` bytes as a payload, with what follows them (R60). -/
def takePayload (n : Count) (bs : List Byte) : Option (Payload × List Byte) :=
  match n.toNat, bs with
  | 0, r => some (.f0, r)
  | 1, a :: r => some (.f1 a, r)
  | 2, a :: b :: r => some (.f2 a b, r)
  | 3, a :: b :: d :: r => some (.f3 a b d, r)
  | _, _ => none

/-- Format F3I (R62, R63): the index byte, then the value, high byte first. -/
def actuatorInstr (make : Byte → Word16 → Byte → Instr) (chk : Byte) : Payload → Option Instr
  | .f3 a b d => some (make a (joinBytes b d) chk)
  | .f0 => none
  | .f1 _ => none
  | .f2 _ _ => none

/-- Format F0 (R62): no operand. -/
def plainInstr (make : Byte → Instr) (chk : Byte) : Payload → Option Instr
  | .f0 => some (make chk)
  | .f1 _ => none
  | .f2 _ _ => none
  | .f3 _ _ _ => none

/-- Format F0 or F1 of SAMPLE (R62, R65). -/
def sampleInstr (op chk : Byte) : Payload → Option Instr
  | .f0 => some (.sample op none chk)
  | .f1 a => some (.sample op (some a) chk)
  | .f2 _ _ => none
  | .f3 _ _ _ => none

/-- The instruction of a candidate frame, by the class of its opcode (R62, R63, R65). -/
def instrOf (cls : CmdClass) (op : Byte) (p : Payload) (chk : Byte) : Option Instr :=
  match cls with
  | .motor => actuatorInstr (.motor op) chk p
  | .servo => actuatorInstr (.servo op) chk p
  | .lightsOn => plainInstr (.lightsOn op) chk p
  | .lightsOff => plainInstr (.lightsOff op) chk p
  | .masterOn => plainInstr (.masterOn op) chk p
  | .masterOff => plainInstr (.masterOff op) chk p
  | .sample => sampleInstr op chk p
  | .generic => some (.generic op p chk)

/-- The first instruction of a byte list and the bytes after it (R60, R61, R67). -/
def decode (c : Config) : List Byte → Except DecodeError (Instr × List Byte)
  | [] => .error .noByte
  | b :: rest =>
    match Machine.table c b with
    | none => .ok (.unregisteredByte b, rest)
    | some e =>
      match takePayload e.len rest with
      | some (p, chk :: rest') =>
        match instrOf e.cls b p chk with
        | some i => .ok (i, rest')
        | none => .error .badEntry
      | some (_, []) => .error (.incomplete e.len)
      | none => .error (.incomplete e.len)

/-- The opcode byte (R60), or the byte itself where it is no opcode (R91). -/
def Instr.opcode : Instr → Byte
  | .motor op _ _ _ => op
  | .servo op _ _ _ => op
  | .lightsOn op _ => op
  | .lightsOff op _ => op
  | .masterOn op _ => op
  | .masterOff op _ => op
  | .sample op _ _ => op
  | .generic op _ _ => op
  | .unregisteredByte b => b

/-- The payload of a MOTOR or SERVO frame: index, then the value, high byte first (format F3I of R62; R43). -/
def actuatorPayload (idx : Byte) (raw : Word16) : Payload := .f3 idx (highByte raw) (lowByte raw)

/-- The payload of a SAMPLE frame (R65, R129). -/
def samplePayload : Option Byte → Payload
  | none => .f0
  | some a => .f1 a

/-- The instruction's payload, format by format (R62). -/
def Instr.payload : Instr → Payload
  | .motor _ idx raw _ => actuatorPayload idx raw
  | .servo _ idx raw _ => actuatorPayload idx raw
  | .lightsOn _ _ => .f0
  | .lightsOff _ _ => .f0
  | .masterOn _ _ => .f0
  | .masterOff _ _ => .f0
  | .sample _ arg _ => samplePayload arg
  | .generic _ p _ => p
  | .unregisteredByte _ => .f0

/-- The checksum byte as received; an unregistered byte has none (R60, R91). -/
def Instr.chk? : Instr → Option Byte
  | .motor _ _ _ chk => some chk
  | .servo _ _ _ chk => some chk
  | .lightsOn _ chk => some chk
  | .lightsOff _ chk => some chk
  | .masterOn _ chk => some chk
  | .masterOff _ chk => some chk
  | .sample _ _ chk => some chk
  | .generic _ _ chk => some chk
  | .unregisteredByte _ => none

/-- The bytes of an instruction in link order: opcode, payload, checksum (R60); one byte where it is no opcode (R91). -/
def encode (i : Instr) : List Byte := i.opcode :: (i.payload.bytes ++ i.chk?.toList)

/-- The five bytes (the longest frame, R61) of an instruction given as a number: byte `k` is bits `8k+7 .. 8k`, the
first byte of the frame lowest, every bit from `nbits` up zero. -/
def tableWordBytes (nbits w : Nat) : List Byte :=
  let v := w % 2 ^ nbits
  [BitVec.ofNat 8 v, BitVec.ofNat 8 (v / 2 ^ 8), BitVec.ofNat 8 (v / 2 ^ 16), BitVec.ofNat 8 (v / 2 ^ 24),
    BitVec.ofNat 8 (v / 2 ^ 32)]

/-- What the decoder reads, under the machine's configuration, from an opcode-table word. -/
def decodeTableWord (nbits w : Nat) : Option Instr :=
  match decode Config.deployed (tableWordBytes nbits w) with
  | .ok (i, _) => some i
  | .error _ => none

end Sys2Proof
end

