-- ==== Sys2Proof/Machine/Operands.lean ====
section
/-! DEFINITION. The operands a handler works on: the three payload lanes of a `Dispatch` event, and the actuator encoder
that turns a 16-bit value into a pulse width (spec/43_dispatch.md R122). -/

namespace Sys2Proof.Machine

/-- The payload as the three lanes `p0, p1, p2`; lanes from the payload length on are 0 (R22, R120). -/
def lane0 : Payload → Byte
  | .f0 => 0#8
  | .f1 a => a
  | .f2 a _ => a
  | .f3 a _ _ => a

/-- See `lane0`. -/
def lane1 : Payload → Byte
  | .f0 => 0#8
  | .f1 _ => 0#8
  | .f2 _ b => b
  | .f3 _ b _ => b

/-- See `lane0`. -/
def lane2 : Payload → Byte
  | .f0 => 0#8
  | .f1 _ => 0#8
  | .f2 _ _ => 0#8
  | .f3 _ _ d => d

/-- `clamp(x, lo, hi) = min(max(x, lo), hi)`, unsigned (spec/00_scope.md section 4). -/
def clamp (x lo hi : Word16) : Word16 :=
  let m := if x.ult lo then lo else x
  if hi.ult m then hi else m

/-- `LinMap(raw, lo, hi)` (R122, D13), at the widths R122 and R135 state: a 16-bit exclusive OR, a 32-bit product and
quotient, a 16-bit sum, a clamp. -/
def linMap (raw lo hi : Word16) : Word16 :=
  let u : Word16 := raw ^^^ 0x8000#16
  let q : BitVec 32 := (u.setWidth 32 * (hi - lo).setWidth 32) / 65535#32
  clamp (lo + q.setWidth 16) lo hi

end Sys2Proof.Machine
end

