-- ==== Sys2Proof/Machine/State.lean ====
section
/-! DEFINITION. The state of the block (spec/10_state.md R20, R22), the input ports it will see (R21), the
configuration it was built with (R7), the reasons a step can stop, and the state after reset (R29). -/

namespace Sys2Proof.Machine

/-- `st` (R27): AwaitingOpcode, CollectingPayload, AwaitingChecksum; `2'b11` is unrepresentable, as R27 says. -/
inductive ParserState where
  | idle | payload | check
  deriving DecidableEq, Repr

/-- `buf[0]`, `buf[1]`, `buf[2]` (R20, R32). -/
structure PayloadBuf where
  b0 : Byte
  b1 : Byte
  b2 : Byte
  deriving DecidableEq, Repr

/-- The output events of R22. -/
inductive Event where
  /-- `Dispatch(op, n, p0, p1, p2)` (R120) -/
  | dispatch (op : Byte) (n : Count) (p0 p1 p2 : Byte)
  /-- `MotorWrite(idx, pw)` (R123) -/
  | motorWrite (idx : Byte) (pw : Word16)
  /-- `ServoWrite(idx, pw)` (R124) -/
  | servoWrite (idx : Byte) (pw : Word16)
  /-- `LightsSet(on)` (R125, R126) -/
  | lightsSet (on : Bool)
  /-- `MasterSet(on)` (R127, R128) -/
  | masterSet (on : Bool)
  /-- `SampleTrigger(arg)` (R129) -/
  | sampleTrigger (arg : Option Byte)
  deriving DecidableEq, Repr

/-- The output registers (R22), one field per port; they hold the events of the previous step. -/
structure Outputs where
  dispValid      : Bool
  dispOpcode     : Byte
  dispLen        : Count
  dispPayload    : BitVec 24
  motorWe        : Bool
  motorIdx       : Byte
  motorPw        : Word16
  servoWe        : Bool
  servoIdx       : Byte
  servoPw        : Word16
  lightsWe       : Bool
  lightsOn       : Bool
  masterWe       : Bool
  masterOn       : Bool
  sampleTrig     : Bool
  sampleArgValid : Bool
  sampleArg      : Byte
  deriving DecidableEq, Repr

/-- Every output register 0: no event (R20, R22, R29). -/
def Outputs.zero : Outputs where
  dispValid := false
  dispOpcode := 0#8
  dispLen := 0#2
  dispPayload := 0#24
  motorWe := false
  motorIdx := 0#8
  motorPw := 0#16
  servoWe := false
  servoIdx := 0#8
  servoPw := 0#16
  lightsWe := false
  lightsOn := false
  masterWe := false
  masterOn := false
  sampleTrig := false
  sampleArgValid := false
  sampleArg := 0#8

/-- The input ports of one clock cycle (R21): `rst`, `rx_valid`, `rx_data`. -/
structure PortSample where
  rst     : Bool
  rxValid : Bool
  rxData  : Byte
  deriving DecidableEq, Repr

/-- The state. `st` to `buf` are the registers of R20, `out` the output registers of R22. `cfg` and `inputs` are the
model's own fields: the configuration (R7; "not state of the block", R31; no step changes it), and what the
environment drives on the input ports in the coming cycles, next cycle first. -/
structure State where
  st     : ParserState
  opc    : Byte
  len    : Count
  cnt    : Count
  acc    : Byte
  buf    : PayloadBuf
  out    : Outputs
  cfg    : Config
  inputs : List PortSample
  deriving DecidableEq, Repr

/-- Why a step stops. The block itself has no fault (R150): each of these is a state the spec rules out (R28) and gives
no effect to, so stopping is SAFE; from a state that keeps the invariants of R28 none is ever raised. -/
inductive Fault where
  /-- Raised by `storePayloadByte`: a payload byte arrives with `cnt = 3`, and `buf[3]` does not exist (R94: "so
  `buf[cnt]` always exists"; ruled out by I2 of R28). Safe. -/
  | noSuchBufferByte
  /-- Raised by `withoutHandler`: the checksum byte matches and `opc`, `len` are not those of a registered opcode, so
  R120 has no handler ("there is no "unknown class" case", R121; ruled out by I1 of R28). Safe. -/
  | noHandler
  deriving DecidableEq, Repr

/-- Why an instruction is refused. -/
inductive Refusal where
  /-- Raised by `exec` for an instruction of the opcode table that has no meaning yet. Safe. No arm uses it. -/
  | notModelled (mnemonic : String)
  deriving DecidableEq, Repr

/-- The state after reset under a configuration: R20's reset column, R29. Nothing is pending on the input ports. -/
def State.resetWith (c : Config) : State where
  st := .idle
  opc := 0#8
  len := 0#2
  cnt := 0#2
  acc := 0#8
  buf := ⟨0#8, 0#8, 0#8⟩
  out := Outputs.zero
  cfg := c
  inputs := []

/-- The state after reset (R29, R170) of the machine at hand. -/
def State.reset : State := State.resetWith Config.deployed

end Sys2Proof.Machine
end

