-- ==== Sys2Proof/Machine/Ops.lean ====
section
/-! DEFINITION. The named operations over the registers: the input handshake (spec/10_state.md R21), the payload buffer,
the output ports (R22), the parser's byte operations (spec/41_frame_parser.md) and reset (spec/70 R170). The block has no
exception to take and none to return from (R150, R154): reset is the one operation that overrides the parser. -/

namespace Sys2Proof.Machine

/-- The two-bit code of `st` (R27). -/
def ParserState.code : ParserState → BitVec 2
  | .idle => 0#2
  | .payload => 1#2
  | .check => 2#2

/-- The parser state a two-bit code stands for; the unused `2'b11` is treated as IDLE (R27, D4). -/
def ParserState.ofCode (k : BitVec 2) : ParserState :=
  match k.toNat with
  | 1 => .payload
  | 2 => .check
  | _ => .idle

/-! ### Input ports (R21) -/

/-- A cycle that presents the byte `b`. -/
def PortSample.byte (b : Byte) : PortSample := ⟨false, true, b⟩

/-- A cycle that presents no byte. -/
def PortSample.quiet : PortSample := ⟨false, false, 0#8⟩

/-- A cycle with `rst = 1` and no byte. -/
def PortSample.reset : PortSample := ⟨true, false, 0#8⟩

/-- `rx_ready = NOT rst` (R21). -/
def rxReady (p : PortSample) : Bool := !p.rst

/-- The step input `rx` (R21): `Some rx_data` exactly when `rx_valid = 1` and `rx_ready = 1`. -/
def rxByte (p : PortSample) : Option Byte := if p.rxValid && rxReady p then some p.rxData else none

/-- The input ports in this cycle; once the list is used up the environment presents nothing (notes/assumptions/3.md). -/
def currentPorts (s : State) : PortSample := s.inputs.headD PortSample.quiet

/-- The state with this cycle's port values taken, every register as it was. -/
def advance (s : State) : State := { s with inputs := s.inputs.tail }

/-! ### The payload buffer (R32) -/

/-- `buf[i]`, for `i` in 0 .. 2. -/
def PayloadBuf.get (m : PayloadBuf) (i : Nat) : Byte :=
  match i with
  | 0 => m.b0
  | 1 => m.b1
  | _ => m.b2

/-- `buf[cnt] <- b`, `BufWrite(cnt, b)` (R94); `none` where there is no such byte. -/
def PayloadBuf.write (m : PayloadBuf) (cnt : Count) (b : Byte) : Option PayloadBuf :=
  match cnt.toNat with
  | 0 => some { m with b0 := b }
  | 1 => some { m with b1 := b }
  | 2 => some { m with b2 := b }
  | _ => none

/-- The first `n` bytes of the buffer as a payload (R42). -/
def PayloadBuf.first (m : PayloadBuf) (n : Count) : Payload :=
  match n.toNat with
  | 0 => .f0
  | 1 => .f1 m.b0
  | 2 => .f2 m.b0 m.b1
  | _ => .f3 m.b0 m.b1 m.b2

/-! ### Output ports (R22) -/

/-- The output registers with one more event on its port. -/
def Outputs.drive (o : Outputs) : Event → Outputs
  | .dispatch op n p0 p1 p2 =>
      { o with dispValid := true, dispOpcode := op, dispLen := n, dispPayload := p0 ++ p1 ++ p2 }
  | .motorWrite idx pw => { o with motorWe := true, motorIdx := idx, motorPw := pw }
  | .servoWrite idx pw => { o with servoWe := true, servoIdx := idx, servoPw := pw }
  | .lightsSet on => { o with lightsWe := true, lightsOn := on }
  | .masterSet on => { o with masterWe := true, masterOn := on }
  | .sampleTrigger arg =>
      { o with sampleTrig := true, sampleArgValid := arg.isSome, sampleArg := arg.getD 0#8 }

/-- The output registers a step writes: the step's events, every port without one at 0 (R22, D15). -/
def Outputs.ofEvents (evs : List Event) : Outputs := evs.foldl Outputs.drive Outputs.zero

/-- The events the output registers hold, read port by port (R22, D22, D23). -/
def Outputs.events (o : Outputs) : List Event :=
  (if o.dispValid then
    [.dispatch o.dispOpcode o.dispLen (o.dispPayload.extractLsb' 16 8) (o.dispPayload.extractLsb' 8 8)
      (o.dispPayload.extractLsb' 0 8)] else [])
  ++ (if o.motorWe then [.motorWrite o.motorIdx o.motorPw] else [])
  ++ (if o.servoWe then [.servoWrite o.servoIdx o.servoPw] else [])
  ++ (if o.lightsWe then [.lightsSet o.lightsOn] else [])
  ++ (if o.masterWe then [.masterSet o.masterOn] else [])
  ++ (if o.sampleTrig then [.sampleTrigger (if o.sampleArgValid then some o.sampleArg else none)] else [])

/-! ### The parser's byte operations (spec/41_frame_parser.md) -/

/-- A step that changes no register of R20 and emits nothing: NOBYTE (R90) and DISCARD (R91). -/
def keepRegisters (s : State) : State := { s with out := Outputs.ofEvents [] }

/-- OPCODE and OPCODE0 (R92, R93): the registered opcode `b` of payload length `n` is accepted in IDLE. -/
def acceptOpcode (b : Byte) (n : Count) (s : State) : State :=
  { s with
    opc := b
    len := n
    cnt := 0#2
    acc := b
    buf := ⟨0#8, 0#8, 0#8⟩
    st := if n = 0#2 then .check else .payload
    out := Outputs.ofEvents [] }

/-- PAYLOAD_BYTE and LAST_PAYLOAD_BYTE (R94, R95): `buf[cnt] <- b`, `acc <- acc ^ b`, `cnt <- cnt + 1`, and CHECK in the
same step when the payload is complete. -/
def storePayloadByte (b : Byte) (s : State) : Host.Outcome State Fault Refusal :=
  match s.buf.write s.cnt b with
  | some m =>
      .next { s with
        buf := m
        acc := s.acc ^^^ b
        cnt := s.cnt + 1#2
        st := if s.cnt + 1#2 = s.len then .check else .payload
        out := Outputs.ofEvents [] }
  | none => .fault .noSuchBufferByte

/-- The step that takes a checksum byte (R96): IDLE again, `evs` on the output ports, every other register as it was. -/
def endFrame (evs : List Event) (s : State) : State := { s with st := .idle, out := Outputs.ofEvents evs }

/-- The dispatch event of a validated frame (R120). -/
def dispatchEvent (op : Byte) (p : Payload) : Event := .dispatch op p.len (lane0 p) (lane1 p) (lane2 p)

/-- CHECKSUM_BYTE (R96, R120): a candidate frame and its received checksum byte. If the accumulated value matches, the
dispatch event and the handler's events are emitted in this step; otherwise the frame is dropped in silence (R114). -/
def completeFrame (op : Byte) (p : Payload) (chk : Byte) (handler : List Event) (s : State) : State :=
  endFrame (if checksumOK s.acc chk then dispatchEvent op p :: handler else []) s

/-- A checksum byte where `opc` and `len` belong to no registered opcode: a mismatch drops the frame as in R96, a match has
no handler (R120, R121). -/
def withoutHandler (b : Byte) (s : State) : Host.Outcome State Fault Refusal :=
  if checksumOK s.acc b then .fault .noHandler else .next (endFrame [] s)

/-! ### Reset (R170) -/

/-- The effect of `rst = 1`: every register of R20 and R22 takes its reset value, whatever the state. -/
def resetRegisters (s : State) : State := { State.resetWith s.cfg with inputs := s.inputs }

end Sys2Proof.Machine
end

