-- ==== Sys2Proof/Machine/Actuators.lean ====
section
/-! DEFINITION. The motor and servo handlers (spec/43_dispatch.md R123, R124). -/

namespace Sys2Proof.Machine

/-- `Handler(MOTOR, cfg, buf)` (R123): an index out of range writes nothing. -/
def motorHandler (c : Config) (idx : Byte) (raw : Word16) : List Event :=
  if inRange idx c.raw.nMotors then [.motorWrite idx (linMap raw c.raw.motorPwLow c.raw.motorPwHigh)] else []

/-- `Handler(SERVO, cfg, buf)` (R124). -/
def servoHandler (c : Config) (idx : Byte) (raw : Word16) : List Event :=
  if inRange idx c.raw.nServos then [.servoWrite idx (linMap raw c.raw.servoPwLow c.raw.servoPwHigh)] else []

/-- MOTOR (R123). -/
def execMotor (op idx : Byte) (raw : Word16) (chk : Byte) (s : State) : Host.Outcome State Fault Refusal :=
  .next (completeFrame op (actuatorPayload idx raw) chk (motorHandler s.cfg idx raw) s)

/-- SERVO (R124). -/
def execServo (op idx : Byte) (raw : Word16) (chk : Byte) (s : State) : Host.Outcome State Fault Refusal :=
  .next (completeFrame op (actuatorPayload idx raw) chk (servoHandler s.cfg idx raw) s)

end Sys2Proof.Machine
end

