-- ==== Sys2Proof/Machine/Generic.lean ====
section
/-! DEFINITION. Registered opcodes with no encoder of their own (spec/43_dispatch.md R130), and the unregistered byte
(spec/41_frame_parser.md R91). -/

namespace Sys2Proof.Machine

/-- GENERIC (R130): the dispatch event only. -/
def execGeneric (op : Byte) (p : Payload) (chk : Byte) (s : State) : Host.Outcome State Fault Refusal :=
  .next (completeFrame op p chk [] s)

/-- DISCARD (R91): the byte is consumed, no register changes and nothing is emitted, whatever the byte. -/
def execUnregisteredByte (_b : Byte) (s : State) : Host.Outcome State Fault Refusal :=
  .next (keepRegisters s)

end Sys2Proof.Machine
end

