-- ==== Sys2Proof/Machine/Relays.lean ====
section
/-! DEFINITION. The lights and master-power handlers (spec/43_dispatch.md R125 to R128). The block holds no relay level: a
repeated command emits its event again (R31, R47). -/

namespace Sys2Proof.Machine

/-- LIGHTS_ON (R125). -/
def execLightsOn (op chk : Byte) (s : State) : Host.Outcome State Fault Refusal :=
  .next (completeFrame op .f0 chk [.lightsSet true] s)

/-- LIGHTS_OFF (R126). -/
def execLightsOff (op chk : Byte) (s : State) : Host.Outcome State Fault Refusal :=
  .next (completeFrame op .f0 chk [.lightsSet false] s)

/-- MASTER_ON (R127). -/
def execMasterOn (op chk : Byte) (s : State) : Host.Outcome State Fault Refusal :=
  .next (completeFrame op .f0 chk [.masterSet true] s)

/-- MASTER_OFF (R128). -/
def execMasterOff (op chk : Byte) (s : State) : Host.Outcome State Fault Refusal :=
  .next (completeFrame op .f0 chk [.masterSet false] s)

end Sys2Proof.Machine
end

