-- ==== Sys2Proof/Machine/Sensors.lean ====
section
/-! DEFINITION. The sample-collection handler (spec/43_dispatch.md R129). -/

namespace Sys2Proof.Machine

/-- SAMPLE (R129): the argument byte, where the configuration gives the frame one, passes through unchanged (D17). -/
def execSample (op : Byte) (arg : Option Byte) (chk : Byte) (s : State) : Host.Outcome State Fault Refusal :=
  .next (completeFrame op (samplePayload arg) chk [.sampleTrigger arg] s)

end Sys2Proof.Machine
end

