-- ==== Sys2Proof/Machine/Dispatch.lean ====
section
/-! DEFINITION. The command dispatcher: one arm per row of spec/opcode_table.json (R121). -/

namespace Sys2Proof.Machine

/-- The effect of an instruction in the step that consumes its last byte. -/
def exec (i : Instr) (s : State) : Host.Outcome State Fault Refusal :=
  match i with
  | .motor op idx raw chk => Sys2Proof.Machine.execMotor op idx raw chk s
  | .servo op idx raw chk => Sys2Proof.Machine.execServo op idx raw chk s
  | .lightsOn op chk => Sys2Proof.Machine.execLightsOn op chk s
  | .lightsOff op chk => Sys2Proof.Machine.execLightsOff op chk s
  | .masterOn op chk => Sys2Proof.Machine.execMasterOn op chk s
  | .masterOff op chk => Sys2Proof.Machine.execMasterOff op chk s
  | .sample op arg chk => Sys2Proof.Machine.execSample op arg chk s
  | .generic op p chk => Sys2Proof.Machine.execGeneric op p chk s
  | .unregisteredByte b => Sys2Proof.Machine.execUnregisteredByte b s

end Sys2Proof.Machine
end

