-- ==== Sys2Proof/Machine/Fetch.lean ====
section
/-! DEFINITION. What a step has to do, from the parser state and the input ports (spec/41_frame_parser.md R97), and the
placing of an opcode-table word so that the next step completes it. -/

namespace Sys2Proof.Machine

/-- The cases of R97, with reset (R170) first. -/
inductive Fetched where
  /-- `rst = 1` (R170) -/
  | reset
  /-- no byte is consumed (R90) -/
  | noByte
  /-- a registered opcode of payload length `n` in IDLE (R92, R93) -/
  | opcode (b : Byte) (n : Count)
  /-- a payload byte (R94, R95) -/
  | payloadByte (b : Byte)
  /-- the byte that completes an instruction (R91, R96) -/
  | instr (i : Instr)
  /-- a checksum byte after bytes that are no frame of a registered opcode (ruled out by R28 I1) -/
  | notAFrame (b : Byte)
  deriving DecidableEq, Repr

/-- The bytes of the candidate frame in the registers, then the byte on the link: opcode, payload, checksum (R60, R96). -/
def candidateBytes (s : State) (b : Byte) : List Byte := s.opc :: ((s.buf.first s.len).bytes ++ [b])

/-- What the byte `b` is, by the parser state (R97). In IDLE it is an instruction of its own where it is no opcode. -/
def fetchByte (s : State) (b : Byte) : Fetched :=
  match s.st with
  | .idle =>
      match table s.cfg b with
      | none => .instr (.unregisteredByte b)
      | some e => .opcode b e.len
  | .payload => .payloadByte b
  | .check =>
      match decode s.cfg (candidateBytes s b) with
      | .ok (i, []) => .instr i
      | .ok (_, _ :: _) => .notAFrame b
      | .error _ => .notAFrame b

/-- What this step does: reset wins over a byte in the same cycle (R170, D5). -/
def fetch (s : State) : Fetched :=
  let p := currentPorts s
  if p.rst then .reset
  else
    match rxByte p with
    | none => .noByte
    | some b => fetchByte s b

/-- The payload as the buffer holds it after collection: bytes from its length on are 0 (R92, R94, R28 I5). -/
def bufOf (p : Payload) : PayloadBuf := ⟨lane0 p, lane1 p, lane2 p⟩

/-- The registers as they stand when the frame's opcode and payload have been collected (R92 to R95), the checksum byte
next on the link. -/
def placeFrame (op : Byte) (p : Payload) (chk : Byte) (s : State) : State :=
  { s with
    st := .check
    opc := op
    len := p.len
    cnt := p.len
    acc := checksum op p
    buf := bufOf p
    inputs := PortSample.byte chk :: s.inputs }

/-- The state in which the next step consumes the last byte of the first instruction of `bytes`; where the bytes are no
whole instruction, their first byte is next on the link. -/
def placeBytes (bytes : List Byte) (s : State) : State :=
  match decode s.cfg bytes with
  | .ok (i, _) =>
      match i.chk? with
      | some chk => placeFrame i.opcode i.payload chk s
      | none => { s with st := .idle, inputs := PortSample.byte i.opcode :: s.inputs }
  | .error _ => { s with st := .idle, inputs := (bytes.take 1).map PortSample.byte ++ s.inputs }

end Sys2Proof.Machine
end

