-- ==== Sys2Proof/Machine/Step.lean ====
section
/-! DEFINITION. One step: one clock cycle of the block (spec/41_frame_parser.md R97, spec/70 R170, 92 D1). -/

namespace Sys2Proof.Machine

/-- One clock cycle: this cycle's port values are taken, then reset, no byte, an opcode byte, a payload byte, or the
instruction whose last byte arrived. -/
def step (s : State) : Host.Outcome State Fault Refusal :=
  match fetch s with
  | .reset => .next (resetRegisters (advance s))
  | .noByte => .next (keepRegisters (advance s))
  | .opcode b n => .next (acceptOpcode b n (advance s))
  | .payloadByte b => storePayloadByte b (advance s)
  | .instr i => exec i (advance s)
  | .notAFrame b => withoutHandler b (advance s)

/-- `s` with an opcode-table word placed so that the very next step runs it: the opcode and the payload are in the parser's
registers, as after their own steps, and the last byte is next on the link (notes/assumptions/4.md). -/
def State.withFetchWord (s : State) (nbits w : Nat) : State := placeBytes (tableWordBytes nbits w) s

end Sys2Proof.Machine
end

