-- ==== Sys2Proof/Machine/Notation.lean ====
section
/-! DEFINITION. The frame notation (spec/30_encoding.md R70, D24): lines of a program to the port values of the coming
cycles. There is no other assembler. -/

namespace Sys2Proof.Machine

/-- The frame notations of R70; the opcode byte is written out, since the configuration leaves it open (R9). -/
inductive FrameNote where
  /-- `MOTOR idx, val` -/
  | motor (op idx : Byte) (val : Int)
  /-- `SERVO idx, val` -/
  | servo (op idx : Byte) (val : Int)
  /-- `LIGHTS_ON` -/
  | lightsOn (op : Byte)
  /-- `LIGHTS_OFF` -/
  | lightsOff (op : Byte)
  /-- `MASTER_ON` -/
  | masterOn (op : Byte)
  /-- `MASTER_OFF` -/
  | masterOff (op : Byte)
  /-- `SAMPLE` / `SAMPLE arg` -/
  | sample (op : Byte) (arg : Option Byte)
  /-- `GENERIC op, p0, ...` -/
  | generic (op : Byte) (p : Payload)
  deriving DecidableEq, Repr

/-- One line of a program (R70). -/
inductive Line where
  /-- a frame with its correct checksum -/
  | frame (f : FrameNote)
  /-- `... , chk=X` -/
  | frameChk (f : FrameNote) (x : Byte)
  /-- `.byte b0, b1, ...` -/
  | bytes (bs : List Byte)
  /-- `.idle n` -/
  | idle (n : Nat)
  /-- "(rst = 1 for one cycle)", as program P4 of spec/95_test_vectors.md writes it -/
  | reset
  deriving DecidableEq, Repr

/-- The instruction of a frame notation with the checksum byte `x`; `val` is two's complement in 16 bits (R70). -/
def FrameNote.instr (f : FrameNote) (x : Byte) : Instr :=
  match f with
  | .motor op idx val => .motor op idx (BitVec.ofInt 16 val) x
  | .servo op idx val => .servo op idx (BitVec.ofInt 16 val) x
  | .lightsOn op => .lightsOn op x
  | .lightsOff op => .lightsOff op x
  | .masterOn op => .masterOn op x
  | .masterOff op => .masterOff op x
  | .sample op arg => .sample op arg x
  | .generic op p => .generic op p x

/-- `c`, the correct checksum (R70, R110). -/
def FrameNote.correctChk (f : FrameNote) : Byte := checksum (f.instr 0#8).opcode (f.instr 0#8).payload

/-- The port values a line stands for, one cycle each. -/
def Line.ports : Line → List PortSample
  | .frame f => (encode (f.instr f.correctChk)).map PortSample.byte
  | .frameChk f x => (encode (f.instr x)).map PortSample.byte
  | .bytes bs => bs.map PortSample.byte
  | .idle n => List.replicate n PortSample.quiet
  | .reset => [PortSample.reset]

/-- The port values of a program. -/
def assemble (lines : List Line) : List PortSample := lines.flatMap Line.ports

end Sys2Proof.Machine
end

