-- ==== Sys2Proof/Safety.lean ====
section
/-! DEFINITION. The terms claims use: the registers and the invariants of spec/10_state.md R28, the spec's own step function
(R97) and dispatcher (R120) written out as the spec writes them, runs of many cycles, the events they show, and the
environment's duty to hold a byte (R21). -/

namespace Sys2Proof.Machine

/-! ### Registers and invariants -/

/-- The registers of R20 without the output registers. -/
structure Regs where
  st  : ParserState
  opc : Byte
  len : Count
  cnt : Count
  acc : Byte
  buf : PayloadBuf
  deriving DecidableEq, Repr

/-- The registers of a state. -/
def State.regs (s : State) : Regs := ⟨s.st, s.opc, s.len, s.cnt, s.acc, s.buf⟩

/-- Only `st` and the output registers may differ: everything an instruction leaves as it was. -/
def SameButStOut (s t : State) : Prop :=
  t.opc = s.opc ∧ t.len = s.len ∧ t.cnt = s.cnt ∧ t.acc = s.acc ∧ t.buf = s.buf ∧ t.cfg = s.cfg ∧ t.inputs = s.inputs

/-- The invariants I1 to I5 of R28. -/
structure State.Inv (s : State) : Prop where
  /-- I1: the frame in progress has a registered opcode, and `len` is its payload length -/
  i1 : s.st ≠ .idle → ∃ cls, table s.cfg s.opc = some ⟨cls, s.len⟩
  /-- I2 -/
  i2 : s.st = .payload → 1 ≤ s.len.toNat ∧ s.cnt.toNat < s.len.toNat
  /-- I3 -/
  i3 : s.st = .check → s.cnt = s.len
  /-- I4: `acc = opc ^ buf[0] ^ ... ^ buf[cnt-1]` -/
  i4 : s.st ≠ .idle → s.acc = (List.range s.cnt.toNat).foldl (fun x i => x ^^^ s.buf.get i) s.opc
  /-- I5: `buf[i] = 0x00` for every `i` with `cnt ≤ i ≤ 2` -/
  i5 : s.st ≠ .idle → ∀ i, s.cnt.toNat ≤ i → i ≤ 2 → s.buf.get i = 0#8

/-! ### The step function as spec/41_frame_parser.md R97 and spec/43_dispatch.md R120 write it -/

/-- `Handler(cls, cfg, buf)` (R123 to R130). -/
def ruleHandler (cls : CmdClass) (c : Config) (buf : PayloadBuf) : List Event :=
  match cls with
  | .motor =>
      if inRange buf.b0 c.raw.nMotors then
        [.motorWrite buf.b0 (linMap (buf.b1 ++ buf.b2) c.raw.motorPwLow c.raw.motorPwHigh)] else []
  | .servo =>
      if inRange buf.b0 c.raw.nServos then
        [.servoWrite buf.b0 (linMap (buf.b1 ++ buf.b2) c.raw.servoPwLow c.raw.servoPwHigh)] else []
  | .lightsOn => [.lightsSet true]
  | .lightsOff => [.lightsSet false]
  | .masterOn => [.masterSet true]
  | .masterOff => [.masterSet false]
  | .sample => if c.raw.sampleLen = 1 then [.sampleTrigger (some buf.b0)] else [.sampleTrigger none]
  | .generic => []

/-- `DispatchEvents(cfg, opc, len, buf)` (R120); R120 gives no value off the table. -/
def ruleDispatchEvents (c : Config) (opc : Byte) (buf : PayloadBuf) : List Event :=
  match table c opc with
  | some e => .dispatch opc e.len buf.b0 buf.b1 buf.b2 :: ruleHandler e.cls c buf
  | none => []

/-- `buf[cnt] <- b`, by number (R94). -/
def ruleBufWrite (buf : PayloadBuf) (cnt : Nat) (b : Byte) : PayloadBuf :=
  ⟨if cnt = 0 then b else buf.b0, if cnt = 1 then b else buf.b1, if cnt = 2 then b else buf.b2⟩

/-- `step(cfg, s, rx)` of R97. -/
def ruleStep (c : Config) (r : Regs) (rx : Option Byte) : Regs × List Event :=
  match rx with
  | none => (r, [])
  | some b =>
    match r.st with
    | .idle =>
      match table c b with
      | none => (r, [])
      | some e =>
        let r' : Regs := { r with opc := b, len := e.len, cnt := 0#2, acc := b, buf := ⟨0#8, 0#8, 0#8⟩ }
        if e.len = 0#2 then ({ r' with st := .check }, []) else ({ r' with st := .payload }, [])
    | .payload =>
      let r' : Regs := { r with buf := ruleBufWrite r.buf r.cnt.toNat b, acc := r.acc ^^^ b, cnt := r.cnt + 1#2 }
      if r.cnt.toNat + 1 = r.len.toNat then ({ r' with st := .check }, []) else ({ r' with st := .payload }, [])
    | .check =>
      ({ r with st := .idle }, if r.acc = b then ruleDispatchEvents c r.opc r.buf else [])

/-! ### The events of an instruction -/

/-- The collaborator event of a frame, if its handler has one (R123 to R130). -/
def handlerEvents (c : Config) : Instr → List Event
  | .motor _ idx raw _ =>
      if idx.toNat < c.raw.nMotors then [.motorWrite idx (linMap raw c.raw.motorPwLow c.raw.motorPwHigh)] else []
  | .servo _ idx raw _ =>
      if idx.toNat < c.raw.nServos then [.servoWrite idx (linMap raw c.raw.servoPwLow c.raw.servoPwHigh)] else []
  | .lightsOn _ _ => [.lightsSet true]
  | .lightsOff _ _ => [.lightsSet false]
  | .masterOn _ _ => [.masterSet true]
  | .masterOff _ _ => [.masterSet false]
  | .sample _ arg _ => [.sampleTrigger arg]
  | .generic _ _ _ => []
  | .unregisteredByte _ => []

/-- The dispatch event of a frame: opcode, payload length, payload bytes (R120). -/
def frameDispatch (i : Instr) : Event :=
  .dispatch i.opcode i.payload.len (i.payload.bytes.getD 0 0#8) (i.payload.bytes.getD 1 0#8) (i.payload.bytes.getD 2 0#8)

/-- The exclusive OR of a list of bytes (R113). -/
def xorAll (bs : List Byte) : Byte := bs.foldl (· ^^^ ·) 0#8

end Sys2Proof.Machine

namespace Sys2Proof

/-- The frame's checksum byte is the right one (R110, R111); an unregistered byte is no frame and has none. -/
abbrev Instr.valid (i : Instr) : Prop := i.chk? = some (Machine.xorAll (i.opcode :: i.payload.bytes))

end Sys2Proof

namespace Sys2Proof.Machine

/-- The events a frame shows from IDLE: its dispatch and its handler's event if it is valid, otherwise none (R100). -/
def frameEvents (c : Config) (i : Instr) : List Event :=
  if i.valid then frameDispatch i :: handlerEvents c i else []

/-- Is the event a `Dispatch`? -/
def Event.isDispatch : Event → Bool
  | .dispatch _ _ _ _ _ => true
  | .motorWrite _ _ => false
  | .servoWrite _ _ => false
  | .lightsSet _ => false
  | .masterSet _ => false
  | .sampleTrigger _ => false

/-- Data lanes are 0 while their strobe is 0 (R22). -/
structure Outputs.LanesQuiet (o : Outputs) : Prop where
  disp   : o.dispValid = false → o.dispOpcode = 0#8 ∧ o.dispLen = 0#2 ∧ o.dispPayload = 0#24
  motor  : o.motorWe = false → o.motorIdx = 0#8 ∧ o.motorPw = 0#16
  servo  : o.servoWe = false → o.servoIdx = 0#8 ∧ o.servoPw = 0#16
  lights : o.lightsWe = false → o.lightsOn = false
  master : o.masterWe = false → o.masterOn = false
  sample : o.sampleTrig = false → o.sampleArgValid = false ∧ o.sampleArg = 0#8

/-! ### Runs -/

/-- `k` clock cycles. -/
def run : Nat → State → Host.Outcome State Fault Refusal
  | 0, s => .next s
  | k + 1, s =>
    match step s with
    | .next t => run k t
    | .fault f => .fault f
    | .refused r => .refused r

/-- The events of `k` clock cycles in order, read from the output registers after each (R22, D23). -/
def eventTrace : Nat → State → List Event
  | 0, _ => []
  | k + 1, s =>
    match step s with
    | .next t => t.out.events ++ eventTrace k t
    | .fault _ => []
    | .refused _ => []

/-- No cycle of the schedule resets the block. -/
def noReset (ports : List PortSample) : Bool := ports.all (fun p => !p.rst)

/-- The bytes a schedule delivers, in order (R21). -/
def consumed (ports : List PortSample) : List Byte := ports.filterMap rxByte

/-- The transport's duty (R21): a byte presented and not consumed is presented again, unchanged, in the next cycle. -/
def holdsBytes : List PortSample → Bool
  | [] => true
  | [p] => !(p.rxValid && p.rst)
  | p :: q :: rest => (!(p.rxValid && p.rst) || (q.rxValid && q.rxData == p.rxData)) && holdsBytes (q :: rest)

end Sys2Proof.Machine
end

