-- ==== Sys2Proof/Certificates/Slice0/Obligations.lean ====
section
/-! DEFINITION. The statements for the provers. Each names the rule of spec/ it formalises, or, where it rests on a decision
or an inference the spec marks as its own, the section and the decision. -/

open Sys2Proof Sys2Proof.Machine

/-! ### Configuration and command table -/

/-- R8 (WF1 to WF8 with the ranges of R7): every configuration of the machine meets the conditions, and a raw configuration is
either accepted as it is or refused by name. -/
def Obligations.ConfigurationsMeetWellFormedness : Prop :=
  (∀ c : Config,
    table c 0x10#8 = some ⟨.motor, 3#2⟩ ∧ table c 0x31#8 = some ⟨.lightsOn, 0#2⟩ ∧ table c 0xFF#8 = none ∧
    (∀ b e, table c b = some e →
      (e.cls = .motor ∨ e.cls = .servo → e.len = 3#2) ∧
      (e.cls = .lightsOn ∨ e.cls = .lightsOff ∨ e.cls = .masterOn ∨ e.cls = .masterOff → e.len = 0#2) ∧
      (e.cls = .sample → e.len.toNat = c.raw.sampleLen) ∧ e.len.toNat ≤ 3) ∧
    3 ≤ c.raw.nMotors ∧ c.raw.nMotors ≤ 256 ∧ c.raw.nServos ≤ 256 ∧ c.raw.sampleLen ≤ 1 ∧
    c.raw.motorPwLow.toNat < c.raw.motorPwHigh.toNat ∧ c.raw.servoPwLow.toNat < c.raw.servoPwHigh.toNat) ∧
  ∀ r : RawConfig, (∃ c, Config.check r = .ok c ∧ c.raw = r) ∨ (r.wf = false ∧ ∃ e, Config.check r = .error e)

/-- The other half of R8 and R9 (no configuration is shut out): every table and every field values that meet WF1 to WF8 are
those of some configuration of the model. -/
def Obligations.EveryWellFormedTableIsAConfiguration : Prop :=
  ∀ (f : Byte → Option Entry) (nM nS sl : Nat) (mLo mHi sLo sHi : Word16),
    f 0x10#8 = some ⟨.motor, 3#2⟩ → f 0x31#8 = some ⟨.lightsOn, 0#2⟩ → f 0xFF#8 = none →
    (∀ b e, f b = some e →
      (e.cls = .motor ∨ e.cls = .servo → e.len = 3#2) ∧
      (e.cls = .lightsOn ∨ e.cls = .lightsOff ∨ e.cls = .masterOn ∨ e.cls = .masterOff → e.len = 0#2) ∧
      (e.cls = .sample → e.len.toNat = sl)) →
    3 ≤ nM → nM ≤ 256 → nS ≤ 256 → sl ≤ 1 → mLo.toNat < mHi.toNat → sLo.toNat < sHi.toNat →
    ∃ c : Config, (∀ b, table c b = f b) ∧ c.raw.nMotors = nM ∧ c.raw.nServos = nS ∧ c.raw.sampleLen = sl ∧
      c.raw.motorPwLow = mLo ∧ c.raw.motorPwHigh = mHi ∧ c.raw.servoPwLow = sLo ∧ c.raw.servoPwHigh = sHi

/-- R81: `is_valid` and `payload_length` of every byte. -/
def Obligations.TableContractsHoldForEveryByte : Prop :=
  ∀ (c : Config) (b : Byte),
    (∃ cls len, table c b = some ⟨cls, len⟩ ∧ isValid c b = true ∧ payloadLength c b = some len ∧ len.toNat ≤ 3) ∨
    (table c b = none ∧ isValid c b = false ∧ payloadLength c b = none)

/-- The read-only memory of the table (40_command_table.md, R84's layout, the spec's decision D8): a word carries its entry, and
the words with `valid = 1` and the entries stand for each other one to one. -/
def Obligations.RomWordsCarryTheirEntries : Prop :=
  (∀ e, romEntry (romWord e) = e) ∧
  (∀ w : BitVec 6, w.getLsbD 5 = true → romWord (romEntry w) = w) ∧
  (∀ w : BitVec 6, w.getLsbD 5 = false → romEntry w = none)

/-- R82 ("No command, byte sequence or reset changes it"): no run changes the table or any other configuration field. -/
def Obligations.NoRunChangesTheTable : Prop :=
  ∀ (k : Nat) (s t : State), run k s = .next t → t.cfg = s.cfg ∧ ∀ b, table t.cfg b = table s.cfg b

/-! ### Encoding -/

/-- Frames written out byte by byte from R62 and 95_test_vectors.md: the two opcodes and the one unregistered byte that every
configuration has, and the other classes under the test vectors' `REF` (D9). -/
def Obligations.WrittenOutFramesDecode : Prop :=
  (∀ c : Config,
    decode c [0x10#8, 0x02#8, 0x31#8, 0xFF#8, 0xDC#8] = .ok (.motor 0x10#8 0x02#8 0x31FF#16 0xDC#8, []) ∧
    decode c [0x31#8, 0x31#8] = .ok (.lightsOn 0x31#8 0x31#8, []) ∧
    decode c [0xFF#8, 0x31#8] = .ok (.unregisteredByte 0xFF#8, [0x31#8])) ∧
  decode Config.ref [0x20#8, 0x01#8, 0xC0#8, 0x00#8, 0xE1#8] = .ok (.servo 0x20#8 0x01#8 0xC000#16 0xE1#8, []) ∧
  decode Config.ref [0x30#8, 0x30#8] = .ok (.lightsOff 0x30#8 0x30#8, []) ∧
  decode Config.ref [0x41#8, 0x41#8] = .ok (.masterOn 0x41#8 0x41#8, []) ∧
  decode Config.ref [0x40#8, 0x40#8] = .ok (.masterOff 0x40#8 0x40#8, []) ∧
  decode Config.ref [0x50#8, 0x07#8, 0x57#8] = .ok (.sample 0x50#8 (some 0x07#8) 0x57#8, []) ∧
  decode Config.ref [0x60#8, 0xAA#8, 0x55#8, 0x9F#8] = .ok (.generic 0x60#8 (.f2 0xAA#8 0x55#8) 0x9F#8, [])

/-- Decode and encode agree, for every instruction a configuration gives and every operand (30_encoding.md). -/
def Obligations.DecodeOfEncodeIsTheInstruction : Prop :=
  ∀ (c : Config) (i : Instr) (rest : List Byte), i.wf c = true → decode c (encode i ++ rest) = .ok (i, rest)

/-- Encode and decode agree: the bytes of a decoded instruction are the instruction's, none dropped, and it is one the
configuration gives. -/
def Obligations.EncodeOfDecodeIsTheBytes : Prop :=
  ∀ (c : Config) (bytes : List Byte) (i : Instr) (rest : List Byte),
    decode c bytes = .ok (i, rest) → i.wf c = true ∧ encode i ++ rest = bytes

/-- R61: the opcode byte and the table alone decide how many bytes a frame has (2 + N), and bytes decode exactly when they are
that many. -/
def Obligations.FirstByteDecidesFrameLength : Prop :=
  ∀ (c : Config) (b : Byte) (rest : List Byte),
    (table c b = none → decode c (b :: rest) = .ok (.unregisteredByte b, rest)) ∧
    (∀ e, table c b = some e →
      (rest.length < e.len.toNat + 1 → decode c (b :: rest) = .error (.incomplete e.len)) ∧
      (e.len.toNat + 1 ≤ rest.length →
        ∃ i, decode c (b :: rest) = .ok (i, rest.drop (e.len.toNat + 1)) ∧ (encode i).length = 2 + e.len.toNat))

/-- The value of a MOTOR or SERVO frame is big-endian and separate from the index byte (R63; the byte order is the spec's
decision D11). -/
def Obligations.ActuatorValueIsBigEndian : Prop :=
  ∀ (c : Config) (op idx hi lo chk : Byte),
    (table c op = some ⟨.motor, 3#2⟩ → ∃ raw : Word16,
      decode c [op, idx, hi, lo, chk] = .ok (.motor op idx raw chk, []) ∧ raw.toNat = hi.toNat * 256 + lo.toNat) ∧
    (table c op = some ⟨.servo, 3#2⟩ → ∃ raw : Word16,
      decode c [op, idx, hi, lo, chk] = .ok (.servo op idx raw chk, []) ∧ raw.toNat = hi.toNat * 256 + lo.toNat)

/-- Every frame of the notation of R70 (the spec's decision D24) is written with its correct checksum (R110). -/
def Obligations.NotationFramesAreValid : Prop :=
  ∀ f : FrameNote, (f.instr f.correctChk).valid ∧
    Line.ports (.frame f) = (encode (f.instr f.correctChk)).map PortSample.byte

/-! ### Checksum, actuator encoder, index range -/

/-- R110: the checksum is the exclusive OR of the opcode and every payload byte, and nothing else. -/
def Obligations.ChecksumIsXorOfOpcodeAndPayload : Prop :=
  ∀ (op : Byte),
    checksum op .f0 = op ∧
    (∀ a, checksum op (.f1 a) = op ^^^ a) ∧
    (∀ a b, checksum op (.f2 a b) = op ^^^ a ^^^ b) ∧
    (∀ a b d, checksum op (.f3 a b d) = op ^^^ a ^^^ b ^^^ d) ∧
    ∀ p, checksum op p = xorAll (op :: p.bytes)

/-- R113 (the spec's inference from R110): a candidate frame is valid exactly when all its bytes XOR to zero. -/
def Obligations.ValidFramesXorToZero : Prop :=
  ∀ i : Instr, i.chk?.isSome = true → (i.valid ↔ xorAll (encode i) = 0#8)

/-- R115's exact statement (the spec's inference): a corruption of a valid frame into a frame of the same length goes
undetected exactly when every bit position is flipped in an even number of bytes. -/
def Obligations.UndetectedCorruptionsFlipEvenly : Prop :=
  ∀ i j : Instr, i.chk?.isSome = true → j.chk?.isSome = true → (encode i).length = (encode j).length → i.valid →
    (j.valid ↔ ∀ k, k < 8 →
      ((encode i).zip (encode j)).countP (fun p => p.1.getLsbD k != p.2.getLsbD k) % 2 = 0)

/-- R111: at the checksum byte of a candidate frame, comparing the accumulated value with it is the test of R110. -/
def Obligations.AccumulatorComparisonIsTheChecksumTest : Prop :=
  ∀ (s : State) (b : Byte), s.Inv → s.st = .check →
    ∃ i, decode s.cfg (candidateBytes s b) = .ok (i, []) ∧ i.chk? = some b ∧
      (checksumOK s.acc b = true ↔ i.valid) ∧ (checksumOK s.acc b = true ↔ s.acc = b)

/-- The actuator encoder in whole numbers: `lo + floor(u * (hi - lo) / 65535)` with `u = s16(raw) + 32768`, which no width cuts
and no clamp changes (43_dispatch.md section 1; formula and rounding are the spec's decision D13). -/
def Obligations.LinMapIsTheRoundedInterpolation : Prop :=
  ∀ raw lo hi : Word16, lo.toNat < hi.toNat →
    ((linMap raw lo hi).toNat : Int) = lo.toNat + (raw.toInt + 32768) * ((hi.toNat : Int) - lo.toNat) / 65535

/-- R133 (the spec's inference): monotonic in the signed value, exact at both ends, always in the range. -/
def Obligations.LinMapIsMonotonicExactAndBounded : Prop :=
  ∀ lo hi : Word16, lo.toNat < hi.toNat →
    linMap 0x8000#16 lo hi = lo ∧ linMap 0x7FFF#16 lo hi = hi ∧
    (∀ raw, lo.toNat ≤ (linMap raw lo hi).toNat ∧ (linMap raw lo hi).toNat ≤ hi.toNat) ∧
    ∀ v w : Word16, v.toInt ≤ w.toInt → (linMap v lo hi).toNat ≤ (linMap w lo hi).toNat

/-- R132 (0-based and unsigned: the spec's decision D12): an index is in range exactly when it is below the count, for every
byte and every count 0 .. 256. -/
def Obligations.IndexRangeIsUnsignedFromZero : Prop :=
  ∀ (idx : Byte) (n : Nat), n ≤ 256 → (inRange idx n = true ↔ idx.toNat < n)

/-! ### Instructions: what each does, and what it leaves -/

/-- R123: a MOTOR frame whose checksum matches. -/
def Obligations.MotorFrameWritesItsMotor : Prop :=
  ∀ (op idx : Byte) (raw : Word16) (s : State), ∃ t,
    exec (.motor op idx raw s.acc) s = .next t ∧ t.st = .idle ∧ SameButStOut s t ∧
    t.out.events = .dispatch op 3#2 idx (highByte raw) (lowByte raw) ::
      (if inRange idx s.cfg.raw.nMotors then
        [.motorWrite idx (linMap raw s.cfg.raw.motorPwLow s.cfg.raw.motorPwHigh)] else []) ∧
    linMap 0x8000#16 s.cfg.raw.motorPwLow s.cfg.raw.motorPwHigh = s.cfg.raw.motorPwLow ∧
    linMap 0x7FFF#16 s.cfg.raw.motorPwLow s.cfg.raw.motorPwHigh = s.cfg.raw.motorPwHigh

/-- R124 (an index out of range is ignored as for MOTOR: the spec's inference): a SERVO frame whose checksum matches. -/
def Obligations.ServoFrameWritesItsServo : Prop :=
  ∀ (op idx : Byte) (raw : Word16) (s : State), ∃ t,
    exec (.servo op idx raw s.acc) s = .next t ∧ t.st = .idle ∧ SameButStOut s t ∧
    t.out.events = .dispatch op 3#2 idx (highByte raw) (lowByte raw) ::
      (if inRange idx s.cfg.raw.nServos then
        [.servoWrite idx (linMap raw s.cfg.raw.servoPwLow s.cfg.raw.servoPwHigh)] else [])

/-- R125, R126: LIGHTS_ON and LIGHTS_OFF frames whose checksum matches. -/
def Obligations.LightsFramesSetTheLights : Prop :=
  ∀ (op : Byte) (s : State),
    (∃ t, exec (.lightsOn op s.acc) s = .next t ∧ t.st = .idle ∧ SameButStOut s t ∧
      t.out.events = [.dispatch op 0#2 0#8 0#8 0#8, .lightsSet true]) ∧
    (∃ t, exec (.lightsOff op s.acc) s = .next t ∧ t.st = .idle ∧ SameButStOut s t ∧
      t.out.events = [.dispatch op 0#2 0#8 0#8 0#8, .lightsSet false])

/-- R127, R128: MASTER_ON and MASTER_OFF frames whose checksum matches. -/
def Obligations.MasterFramesSetTheMaster : Prop :=
  ∀ (op : Byte) (s : State),
    (∃ t, exec (.masterOn op s.acc) s = .next t ∧ t.st = .idle ∧ SameButStOut s t ∧
      t.out.events = [.dispatch op 0#2 0#8 0#8 0#8, .masterSet true]) ∧
    (∃ t, exec (.masterOff op s.acc) s = .next t ∧ t.st = .idle ∧ SameButStOut s t ∧
      t.out.events = [.dispatch op 0#2 0#8 0#8 0#8, .masterSet false])

/-- R129 (that the byte passes through is the spec's decision D17): a SAMPLE frame whose checksum matches, with its port
values, and which of its two forms a configuration has. -/
def Obligations.SampleFrameTriggersASample : Prop :=
  ∀ (op : Byte) (arg : Option Byte) (s : State),
    (∃ t, exec (.sample op arg s.acc) s = .next t ∧ t.st = .idle ∧ SameButStOut s t ∧
      t.out.events = [.dispatch op (if arg.isSome then 1#2 else 0#2) (arg.getD 0#8) 0#8 0#8, .sampleTrigger arg] ∧
      t.out.sampleTrig = true ∧ t.out.sampleArgValid = arg.isSome ∧ t.out.sampleArg = arg.getD 0#8) ∧
    ((Instr.sample op arg s.acc).wf s.cfg = true → (arg.isSome = true ↔ s.cfg.raw.sampleLen = 1))

/-- R130 (the class is the spec's decision D18): a GENERIC frame whose checksum matches has its `Dispatch` event only. -/
def Obligations.GenericFrameOnlyDispatches : Prop :=
  ∀ (op : Byte) (p : Payload) (s : State), ∃ t,
    exec (.generic op p s.acc) s = .next t ∧ t.st = .idle ∧ SameButStOut s t ∧
    t.out.events =
      [.dispatch op p.len (p.bytes.getD 0 0#8) (p.bytes.getD 1 0#8) (p.bytes.getD 2 0#8)]

/-- R91, as an instruction: an unregistered byte changes no register and emits nothing. -/
def Obligations.UnregisteredByteLeavesEverything : Prop :=
  ∀ (b : Byte) (s : State), ∃ t,
    exec (.unregisteredByte b) s = .next t ∧ t.regs = s.regs ∧ SameButStOut s t ∧ t.out.events = []

/-- R114: a frame whose checksum does not match is dropped in silence, whatever its class and operands. -/
def Obligations.MismatchedFrameIsDroppedInSilence : Prop :=
  ∀ (i : Instr) (chk : Byte) (s : State), i.chk? = some chk → chk ≠ s.acc → ∃ t,
    exec i s = .next t ∧ t.st = .idle ∧ SameButStOut s t ∧ t.out.events = []

/-- R131: a validated frame produces exactly one `Dispatch` and at most one collaborator event, and nothing else. -/
def Obligations.ValidatedFrameDispatchesExactlyOnce : Prop :=
  ∀ (i : Instr) (s : State), i.chk? = some s.acc → ∃ t,
    exec i s = .next t ∧ (t.out.events.filter Event.isDispatch).length = 1 ∧
    (t.out.events.filter (fun e => !e.isDispatch)).length ≤ 1

/-- The output ports lose no event: what a frame's events write is read back as those events, in order, and the payload bytes
stand in the lanes of D22 (10_state.md section 1, R22's ports: the spec's decisions D15, D22). -/
def Obligations.PortsShowExactlyTheFrameEvents : Prop :=
  ∀ (c : Config) (i : Instr),
    (Outputs.ofEvents (frameDispatch i :: handlerEvents c i)).events = frameDispatch i :: handlerEvents c i ∧
    (Outputs.ofEvents (frameDispatch i :: handlerEvents c i)).dispPayload.toNat =
      (i.payload.bytes.getD 0 0#8).toNat * 65536 + (i.payload.bytes.getD 1 0#8).toNat * 256 +
        (i.payload.bytes.getD 2 0#8).toNat

/-! ### The parser's byte steps -/

/-- R21 (the handshake is the spec's decision D2): a byte is consumed exactly when it is valid and the block is ready. -/
def Obligations.ByteIsConsumedWhenValidAndReady : Prop :=
  ∀ (p : PortSample) (b : Byte),
    (rxByte p = some b ↔ p.rxValid = true ∧ rxReady p = true ∧ b = p.rxData) ∧ (rxReady p = true ↔ p.rst = false)

/-- R21 (the spec's decision D2): under the transport's duty to hold a byte, the byte presented first is the next one consumed,
unchanged, however many reset cycles come before. -/
def Obligations.HeldByteIsConsumedNext : Prop :=
  ∀ (p : PortSample) (ports : List PortSample), p.rxValid = true → holdsBytes (p :: ports) = true →
    ∃ bs, consumed (p :: ports) = p.rxData :: bs

/-- R90: a cycle that presents no byte, whatever `rx_data` and whatever the state. -/
def Obligations.NoByteChangesNoRegister : Prop :=
  ∀ (s : State) (p : PortSample) (rest : List PortSample),
    s.inputs = p :: rest → p.rst = false → p.rxValid = false → ∃ t,
    step s = .next t ∧ t.regs = s.regs ∧ t.out.events = [] ∧ t.cfg = s.cfg ∧ t.inputs = rest

/-- R30 ("Cycles with no byte (`rx = None`) never change any register of rule R20"): however many. -/
def Obligations.PartialFrameWaitsHoweverLong : Prop :=
  ∀ (s : State) (ports rest : List PortSample),
    s.inputs = ports ++ rest → noReset ports = true → consumed ports = [] → ∃ t,
    run ports.length s = .next t ∧ t.regs = s.regs ∧ t.cfg = s.cfg ∧ t.inputs = rest ∧ eventTrace ports.length s = []

/-- R91: an unregistered byte in IDLE is consumed and discarded. -/
def Obligations.UnregisteredByteInIdleIsDiscarded : Prop :=
  ∀ (s : State) (b : Byte) (rest : List PortSample),
    s.st = .idle → table s.cfg b = none → s.inputs = PortSample.byte b :: rest → ∃ t,
    step s = .next t ∧ t.regs = s.regs ∧ t.out.events = [] ∧ t.cfg = s.cfg ∧ t.inputs = rest

/-- R92 and R93 (that the buffer is cleared is the spec's decision D7): a registered opcode in IDLE. -/
def Obligations.OpcodeByteStartsAFrame : Prop :=
  ∀ (s : State) (b : Byte) (e : Entry) (rest : List PortSample),
    s.st = .idle → table s.cfg b = some e → s.inputs = PortSample.byte b :: rest → ∃ t,
    step s = .next t ∧ t.opc = b ∧ t.len = e.len ∧ t.cnt = 0#2 ∧ t.acc = b ∧ t.buf = ⟨0#8, 0#8, 0#8⟩ ∧
    (e.len = 0#2 → t.st = .check) ∧ (e.len ≠ 0#2 → t.st = .payload) ∧
    t.out.events = [] ∧ t.cfg = s.cfg ∧ t.inputs = rest

/-- R94: a payload byte that is not the last, whatever its value. -/
def Obligations.PayloadByteIsStoredAndAccumulated : Prop :=
  ∀ (s : State) (b : Byte) (rest : List PortSample),
    s.st = .payload → s.cnt.toNat + 1 < s.len.toNat → s.inputs = PortSample.byte b :: rest → ∃ t,
    step s = .next t ∧ t.st = .payload ∧ t.opc = s.opc ∧ t.len = s.len ∧ t.cnt.toNat = s.cnt.toNat + 1 ∧
    t.acc = s.acc ^^^ b ∧ t.buf.get s.cnt.toNat = b ∧
    (∀ i, i ≤ 2 → i ≠ s.cnt.toNat → t.buf.get i = s.buf.get i) ∧
    t.out.events = [] ∧ t.cfg = s.cfg ∧ t.inputs = rest

/-- R95 (the transition in the same step is the spec's decision D3): the last payload byte. -/
def Obligations.LastPayloadByteAwaitsTheChecksum : Prop :=
  ∀ (s : State) (b : Byte) (rest : List PortSample),
    s.st = .payload → s.cnt.toNat + 1 = s.len.toNat → s.inputs = PortSample.byte b :: rest → ∃ t,
    step s = .next t ∧ t.st = .check ∧ t.opc = s.opc ∧ t.len = s.len ∧ t.cnt = s.len ∧
    t.acc = s.acc ^^^ b ∧ t.buf.get s.cnt.toNat = b ∧
    (∀ i, i ≤ 2 → i ≠ s.cnt.toNat → t.buf.get i = s.buf.get i) ∧
    t.out.events = [] ∧ t.cfg = s.cfg ∧ t.inputs = rest

/-- R96: the checksum byte ends the frame, with the dispatch of R120 exactly if it matches. -/
def Obligations.ChecksumByteEndsTheFrame : Prop :=
  ∀ (s : State) (b : Byte) (rest : List PortSample),
    s.Inv → s.st = .check → s.inputs = PortSample.byte b :: rest → ∃ t,
    step s = .next t ∧ t.st = .idle ∧ t.opc = s.opc ∧ t.len = s.len ∧ t.cnt = s.cnt ∧ t.acc = s.acc ∧ t.buf = s.buf ∧
    t.cfg = s.cfg ∧ t.inputs = rest ∧
    (s.acc = b → ∃ e, table s.cfg s.opc = some e ∧
      t.out.events = .dispatch s.opc s.len s.buf.b0 s.buf.b1 s.buf.b2 :: ruleHandler e.cls s.cfg s.buf) ∧
    (s.acc ≠ b → t.out.events = [])

/-- When the bytes collected and the byte on the link are a whole instruction, step is exec of it: the checksum byte of a frame
in CHECK (R96), and an unregistered byte in IDLE (R91). Around exec, step only takes this cycle's port values. -/
def Obligations.StepRunsTheDecodedInstruction : Prop :=
  ∀ (s : State) (b : Byte) (i : Instr), rxByte (currentPorts s) = some b →
    (s.st = .check → decode s.cfg (candidateBytes s b) = .ok (i, []) → step s = exec i (advance s)) ∧
    (s.st = .idle → decode s.cfg [b] = .ok (i, []) → step s = exec i (advance s)) ∧
    (advance s).regs = s.regs ∧ (advance s).out = s.out ∧ (advance s).cfg = s.cfg ∧
    (advance s).inputs = s.inputs.tail

/-- The model's own entry for a table word (notes/assumptions/4.md): where the word's bytes begin with a whole instruction, the
next step is exec of it, in a state that meets the invariants of R28. -/
def Obligations.PlacedWordRunsNext : Prop :=
  ∀ (s : State) (nbits w : Nat) (i : Instr) (rest : List Byte),
    decode s.cfg (tableWordBytes nbits w) = .ok (i, rest) →
    (s.withFetchWord nbits w).Inv ∧
    step (s.withFetchWord nbits w) = exec i (advance (s.withFetchWord nbits w)) ∧
    (advance (s.withFetchWord nbits w)).inputs = s.inputs ∧ (s.withFetchWord nbits w).cfg = s.cfg

/-- R27's codes (`2'b11` as IDLE is the spec's decision D4). -/
def Obligations.ParserStateCodes : Prop :=
  ParserState.idle.code = 0#2 ∧ ParserState.payload.code = 1#2 ∧ ParserState.check.code = 2#2 ∧
  (∀ p : ParserState, ParserState.ofCode p.code = p) ∧ ParserState.ofCode 3#2 = .idle

/-! ### Reset -/

/-- The state after reset (R20's reset column, R29; all but `st` are the spec's decisions D6 and D15), under every
configuration. -/
def Obligations.ResetStateHoldsTheResetValues : Prop :=
  (∀ c : Config,
    (State.resetWith c).regs = ⟨.idle, 0#8, 0#2, 0#2, 0#8, ⟨0#8, 0#8, 0#8⟩⟩ ∧
    (State.resetWith c).out.events = [] ∧ (State.resetWith c).out.LanesQuiet ∧ (State.resetWith c).cfg = c) ∧
  State.reset = State.resetWith Config.deployed

/-- R170 (polarity and values are the spec's decisions D5, D6): `rst = 1` resets every register from any state and consumes no
byte. -/
def Obligations.ResetInputResetsEveryRegister : Prop :=
  ∀ (s : State) (p : PortSample) (rest : List PortSample), s.inputs = p :: rest → p.rst = true →
    rxReady p = false ∧ rxByte p = none ∧ step s = .next { State.resetWith s.cfg with inputs := rest }

/-- R171: whatever was in progress, after a reset cycle the events are those of a block that has just been reset. -/
def Obligations.ResetDiscardsTheFrameInProgress : Prop :=
  ∀ (s : State) (p : PortSample) (rest : List PortSample) (k : Nat), s.inputs = p :: rest → p.rst = true →
    eventTrace (k + 1) s = eventTrace k { State.resetWith s.cfg with inputs := rest }

/-! ### The whole machine -/

/-- R28 at reset (the spec's inference), under every configuration. -/
def Obligations.ResetStateMeetsTheInvariants : Prop := ∀ c : Config, (State.resetWith c).Inv

/-- R28 (the spec's inference): every step keeps I1 to I5, from every state that has them. -/
def Obligations.EveryStepKeepsTheInvariants : Prop := ∀ s t : State, s.Inv → step s = .next t → t.Inv

/-- R97: on every state with the invariants of R28, a step with `rst = 0` is the spec's own step function. -/
def Obligations.StepIsTheSpecifiedStepFunction : Prop :=
  ∀ s : State, s.Inv → (currentPorts s).rst = false → ∃ t,
    step s = .next t ∧ (t.regs, t.out.events) = ruleStep s.cfg s.regs (rxByte (currentPorts s)) ∧
    t.cfg = s.cfg ∧ t.inputs = s.inputs.tail

/-- R150 ("No byte sequence stops the block"): no schedule of port values ends in a stop. -/
def Obligations.NoInputEverStopsTheBlock : Prop :=
  ∀ (k : Nat) (s : State), s.Inv → ∃ t, run k s = .next t ∧ t.Inv

/-- R22 (the spec's decision D15): after every step, from every state, data lanes are 0 while their strobe is 0, and one step
shows at most one `Dispatch`, at most one collaborator event, and none without a `Dispatch`. -/
def Obligations.OutputPortsAreQuietWithoutEvents : Prop :=
  ∀ s t : State, step s = .next t →
    t.out.LanesQuiet ∧ (t.out.events.filter Event.isDispatch).length ≤ 1 ∧
    (t.out.events.filter (fun e => !e.isDispatch)).length ≤ (t.out.events.filter Event.isDispatch).length

/-- R51 and R134: events leave the block only in the step that consumes a matching checksum byte, and that step ends the
frame. -/
def Obligations.EventsOnlyOnAMatchingChecksumByte : Prop :=
  ∀ s t : State, step s = .next t → t.out.events ≠ [] →
    s.st = .check ∧ rxByte (currentPorts s) = some s.acc ∧ t.st = .idle

/-- R28, last sentence (the spec's inference): in IDLE the other registers are never read, so two idle blocks with one
configuration and one schedule show the same events for ever. -/
def Obligations.IdleRegistersAreNeverRead : Prop :=
  ∀ (k : Nat) (s u : State), s.st = .idle → u.st = .idle → s.cfg = u.cfg → s.inputs = u.inputs →
    eventTrace k s = eventTrace k u

/-- R179 (the spec's inference): registers and event sequence depend on the consumed bytes alone, whatever the gaps. -/
def Obligations.GapsBetweenBytesDoNotMatter : Prop :=
  ∀ (s u : State) (p q restS restU : List PortSample),
    s.Inv → s.regs = u.regs → s.cfg = u.cfg → s.inputs = p ++ restS → u.inputs = q ++ restU →
    noReset p = true → noReset q = true → consumed p = consumed q →
    eventTrace p.length s = eventTrace q.length u ∧
    ∃ s' u', run p.length s = .next s' ∧ run q.length u = .next u' ∧ s'.regs = u'.regs

/-- R100 (the spec's inference): from IDLE, the bytes of a frame with any gaps bring the parser back to IDLE, not earlier, with
the frame's events exactly if its checksum is right. -/
def Obligations.FrameFromIdleCompletes : Prop :=
  ∀ (s : State) (i : Instr) (ports rest : List PortSample),
    s.st = .idle → i.wf s.cfg = true → i.chk?.isSome = true →
    s.inputs = ports ++ rest → noReset ports = true → consumed ports = encode i →
    (∃ t, run ports.length s = .next t ∧ t.st = .idle ∧ t.cfg = s.cfg ∧ t.inputs = rest) ∧
    (i.valid → eventTrace ports.length s = frameDispatch i :: handlerEvents s.cfg i) ∧
    (¬ i.valid → eventTrace ports.length s = []) ∧
    ∀ k u, run k s = .next u → consumed (ports.take k) ≠ [] →
      (consumed (ports.take k)).length < (encode i).length → k ≤ ports.length → u.st ≠ .idle

/-- R51 and R99 (the spec's inference): from IDLE, frames back to back, valid or not, with any unregistered bytes and gaps
between them, show their events in the order they arrive, each by its own bytes alone. -/
def Obligations.FramesDispatchInArrivalOrder : Prop :=
  ∀ (s : State) (is : List Instr) (ports rest : List PortSample),
    s.st = .idle → (∀ i ∈ is, i.wf s.cfg = true) →
    s.inputs = ports ++ rest → noReset ports = true → consumed ports = is.flatMap encode →
    eventTrace ports.length s = is.flatMap (frameEvents s.cfg)

/-- R102 (the spec's inference): four bytes, whatever they are and whatever gaps lie between them, take the parser through
IDLE, from every state of R28. -/
def Obligations.FourBytesPassThroughIdle : Prop :=
  ∀ (s : State) (ports rest : List PortSample),
    s.Inv → s.inputs = ports ++ rest → noReset ports = true → (consumed ports).length = 4 →
    ∃ k t, k ≤ ports.length ∧ run k s = .next t ∧ t.st = .idle

/-- R102 (the spec's inference): four bytes 0xFF leave the parser in IDLE from every state of R28, with at most one
dispatch. -/
def Obligations.FourUnregisteredBytesReachIdle : Prop :=
  ∀ (s : State) (ports rest : List PortSample),
    s.Inv → s.inputs = ports ++ rest → noReset ports = true → consumed ports = List.replicate 4 0xFF#8 →
    (∃ t, run ports.length s = .next t ∧ t.st = .idle) ∧
    ((eventTrace ports.length s).filter Event.isDispatch).length ≤ 1 ∧
    (s.st = .idle → eventTrace ports.length s = [])
end

