-- ==== Sys2Proof/Laws/Table.lean ====
section
/-! SUPPORT. The command table and the well-formedness of configurations (R8, R80). -/

namespace Sys2Proof.Machine

/-- A looked-up entry is a row of the list. -/
theorem lookupRow_mem {rows : List (Byte × Entry)} {b : Byte} {e : Entry} (h : lookupRow rows b = some e) :
    (b, e) ∈ rows := by
  induction rows with
  | nil => simp [lookupRow] at h
  | cons r rest ih =>
    obtain ⟨k, e'⟩ := r
    simp only [lookupRow] at h
    split at h
    · next hk => simp_all
    · exact List.mem_cons_of_mem _ (ih h)

/-- An entry of the table is one of the two fixed ones or an open row. -/
theorem table_cases {c : Config} {b : Byte} {e : Entry} (h : table c b = some e) :
    (b = 0x10#8 ∧ e = ⟨.motor, 3#2⟩) ∨ (b = 0x31#8 ∧ e = ⟨.lightsOn, 0#2⟩) ∨ (b, e) ∈ c.raw.openRows := by
  unfold table at h
  split at h
  · left; simp_all
  split at h
  · right; left; simp_all
  split at h
  · simp at h
  · right; right; exact lookupRow_mem h

/-- Every check of R8 holds of a configuration. -/
theorem check_of_config (c : Config) {p : Bool × ConfigError} (h : p ∈ c.raw.checks) : p.1 = true := by
  have := c.ok
  simp only [RawConfig.wf, List.all_eq_true] at this
  exact this p h

/-- WF4: MOTOR and SERVO entries have length 3. -/
theorem actuator_len {c : Config} {b : Byte} {e : Entry} (h : table c b = some e)
    (hc : e.cls = .motor ∨ e.cls = .servo) : e.len = 3#2 := by
  rcases table_cases h with ⟨-, rfl⟩ | ⟨-, rfl⟩ | hm
  · rfl
  · simp at hc
  · have := check_of_config c (p := (c.raw.openRows.all rowActuatorLen, .actuatorLength)) (by simp [RawConfig.checks])
    have := (List.all_eq_true.mp this) _ hm
    rcases hc with hc | hc <;> simpa [rowActuatorLen, hc] using this

/-- WF5: relay entries have length 0. -/
theorem relay_len {c : Config} {b : Byte} {e : Entry} (h : table c b = some e)
    (hc : e.cls = .lightsOn ∨ e.cls = .lightsOff ∨ e.cls = .masterOn ∨ e.cls = .masterOff) : e.len = 0#2 := by
  rcases table_cases h with ⟨-, rfl⟩ | ⟨-, rfl⟩ | hm
  · simp at hc
  · rfl
  · have := check_of_config c (p := (c.raw.openRows.all rowRelayLen, .relayLength)) (by simp [RawConfig.checks])
    have := (List.all_eq_true.mp this) _ hm
    rcases hc with hc | hc | hc | hc <;> simpa [rowRelayLen, hc] using this

/-- WF6: SAMPLE entries have length SAMPLE_LEN. -/
theorem sample_len {c : Config} {b : Byte} {e : Entry} (h : table c b = some e) (hc : e.cls = .sample) :
    e.len.toNat = c.raw.sampleLen := by
  rcases table_cases h with ⟨-, rfl⟩ | ⟨-, rfl⟩ | hm
  · simp at hc
  · simp at hc
  · have := check_of_config c (p := (c.raw.openRows.all (rowSampleLen c.raw.sampleLen), .sampleLength))
      (by simp [RawConfig.checks])
    have := (List.all_eq_true.mp this) _ hm
    simpa [rowSampleLen, hc] using this

/-- R7, WF8: the collaborator counts. -/
theorem counts_wf (c : Config) : 3 ≤ c.raw.nMotors ∧ c.raw.nMotors ≤ 256 ∧ c.raw.nServos ≤ 256 := by
  have := check_of_config c (p := (decide (3 ≤ c.raw.nMotors ∧ c.raw.nMotors ≤ 256 ∧ c.raw.nServos ≤ 256),
    .collaboratorCount)) (by simp [RawConfig.checks])
  simpa using this

/-- WF8: both pulse-width ranges rise. -/
theorem ranges_wf (c : Config) :
    c.raw.motorPwLow.toNat < c.raw.motorPwHigh.toNat ∧ c.raw.servoPwLow.toNat < c.raw.servoPwHigh.toNat := by
  have := check_of_config c (p := (c.raw.motorPwLow.ult c.raw.motorPwHigh && c.raw.servoPwLow.ult c.raw.servoPwHigh,
    .pulseRange)) (by simp [RawConfig.checks])
  simpa [BitVec.ult] using this

/-- R7: SAMPLE_LEN is 0 or 1. -/
theorem sampleLen_wf (c : Config) : c.raw.sampleLen ≤ 1 := by
  have := check_of_config c (p := (decide (c.raw.sampleLen ≤ 1), .sampleLenField)) (by simp [RawConfig.checks])
  simpa using this

end Sys2Proof.Machine
end

