-- ==== Sys2Proof/Laws/Decode.lean ====
section
/-! SUPPORT. The decoder and encoder: one lemma per helper, and the inversion of `decode`. -/

namespace Sys2Proof

open Machine

/-- A two-bit count is one of four. -/
theorem count_cases (n : Count) : n = 0#2 ∨ n = 1#2 ∨ n = 2#2 ∨ n = 3#2 := by
  revert n; decide

theorem joinBytes_toNat (a b : Byte) : (joinBytes a b).toNat = a.toNat * 256 + b.toNat := by
  simp only [joinBytes, BitVec.toNat_append]
  have := b.isLt
  rw [← Nat.shiftLeft_add_eq_or_of_lt (by simpa using this), Nat.shiftLeft_eq]

theorem highByte_toNat (w : Word16) : (highByte w).toNat = w.toNat / 256 := by
  have := w.isLt
  simp only [highByte, BitVec.extractLsb'_toNat, Nat.shiftRight_eq_div_pow]
  omega

theorem lowByte_toNat (w : Word16) : (lowByte w).toNat = w.toNat % 256 := by
  simp only [lowByte, BitVec.extractLsb'_toNat, Nat.shiftRight_eq_div_pow]
  omega

@[simp] theorem joinBytes_highByte_lowByte (w : Word16) : joinBytes (highByte w) (lowByte w) = w := by
  apply BitVec.eq_of_toNat_eq
  rw [joinBytes_toNat, highByte_toNat, lowByte_toNat]
  omega

@[simp] theorem highByte_joinBytes (a b : Byte) : highByte (joinBytes a b) = a := by
  apply BitVec.eq_of_toNat_eq
  have := b.isLt
  rw [highByte_toNat, joinBytes_toNat]
  omega

@[simp] theorem lowByte_joinBytes (a b : Byte) : lowByte (joinBytes a b) = b := by
  apply BitVec.eq_of_toNat_eq
  have := b.isLt
  rw [lowByte_toNat, joinBytes_toNat]
  omega

@[simp] theorem Payload.bytes_length (p : Payload) : p.bytes.length = p.len.toNat := by cases p <;> rfl

/-- Taking a payload takes its bytes. -/
theorem takePayload_bytes (p : Payload) (rest : List Byte) : takePayload p.len (p.bytes ++ rest) = some (p, rest) := by
  cases p <;> rfl

/-- What was taken is what was there. -/
theorem takePayload_eq_some {n : Count} {bs rest : List Byte} {p : Payload} (h : takePayload n bs = some (p, rest)) :
    p.len = n ∧ bs = p.bytes ++ rest := by
  unfold takePayload at h
  split at h <;> simp_all <;> obtain ⟨rfl, rfl⟩ := h <;> simp_all [Payload.len, Payload.bytes, BitVec.toNat_eq]

/-- A payload can be taken exactly when there are enough bytes. -/
theorem takePayload_isSome {n : Count} {bs : List Byte} (h : n.toNat ≤ bs.length) :
    ∃ p, takePayload n bs = some (p, bs.drop n.toNat) := by
  rcases count_cases n with rfl | rfl | rfl | rfl
  · exact ⟨.f0, rfl⟩
  · match bs, h with
    | a :: r, _ => exact ⟨.f1 a, rfl⟩
  · match bs, h with
    | a :: b :: r, _ => exact ⟨.f2 a b, rfl⟩
  · match bs, h with
    | a :: b :: d :: r, _ => exact ⟨.f3 a b d, rfl⟩

/-- The parts of the instruction made of a frame are the frame's parts, and the configuration gives it. -/
theorem instrOf_eq_some {c : Config} {cls : CmdClass} {op chk : Byte} {p : Payload} {i : Instr}
    (h : instrOf cls op p chk = some i) (ht : table c op = some ⟨cls, p.len⟩) :
    i.opcode = op ∧ i.payload = p ∧ i.chk? = some chk ∧ i.wf c = true := by
  cases cls <;> cases p <;> cases h <;>
    simp [Instr.opcode, Instr.payload, Instr.chk?, Instr.wf, actuatorPayload, samplePayload, ht, Payload.len]

/-- Under a configuration, every payload of a registered opcode's length makes an instruction (R8 WF4 to WF6, R62). -/
theorem instrOf_isSome {c : Config} {cls : CmdClass} {op : Byte} (chk : Byte) {p : Payload}
    (ht : table c op = some ⟨cls, p.len⟩) : ∃ i, instrOf cls op p chk = some i := by
  have ha := fun hc => actuator_len ht hc
  have hr := fun hc => relay_len ht hc
  have hs := fun hc => sample_len ht hc
  have hl := sampleLen_wf c
  cases cls <;> cases p <;> first | exact ⟨_, rfl⟩ | exfalso
  case sample.f2 => simp [Payload.len] at hs; omega
  case sample.f3 => simp [Payload.len] at hs; omega
  all_goals simp [Payload.len] at ha hr

/-- What `decode` answers on a non-empty list, case by case. -/
theorem decode_cons_cases (c : Config) (b : Byte) (rest : List Byte) :
    (table c b = none ∧ decode c (b :: rest) = .ok (.unregisteredByte b, rest)) ∨
    (∃ e, table c b = some e ∧ rest.length < e.len.toNat + 1 ∧ decode c (b :: rest) = .error (.incomplete e.len)) ∨
    (∃ e p chk rest' i, table c b = some e ∧ p.len = e.len ∧ rest = p.bytes ++ chk :: rest' ∧
      decode c (b :: rest) = .ok (i, rest') ∧ i.opcode = b ∧ i.payload = p ∧ i.chk? = some chk ∧ i.wf c = true) := by
  cases ht : table c b with
  | none => left; simp [decode, ht]
  | some e =>
    right
    by_cases hlen : e.len.toNat ≤ rest.length
    · obtain ⟨p, hp⟩ := takePayload_isSome hlen
      obtain ⟨hpl, hpb⟩ := takePayload_eq_some hp
      cases hd : rest.drop e.len.toNat with
      | nil =>
        left
        refine ⟨e, rfl, ?_, ?_⟩
        · have := congrArg List.length hd
          simp at this; omega
        · simp [decode, ht, hp, hd]
      | cons chk rest' =>
        right
        have ht' : table c b = some ⟨e.cls, p.len⟩ := by rw [ht, hpl]
        obtain ⟨i, hi⟩ := instrOf_isSome chk ht'
        refine ⟨e, p, chk, rest', i, rfl, hpl, by rw [← hd]; exact hpb, ?_, instrOf_eq_some hi ht'⟩
        simp [decode, ht, hp, hd, hi]
    · left
      refine ⟨e, rfl, by omega, ?_⟩
      have : takePayload e.len rest = none := by
        cases hp : takePayload e.len rest with
        | none => rfl
        | some q =>
          obtain ⟨hl, hb⟩ := takePayload_eq_some (p := q.1) (rest := q.2) (by simpa using hp)
          have := congrArg List.length hb
          simp [hl] at this; omega
      simp [decode, ht, this]

end Sys2Proof
end

