-- ==== Sys2Proof/Laws/State.lean ====
section
/-! SUPPORT. One lemma per field per state update, so that no proof unfolds an update. -/

namespace Sys2Proof.Machine

/-! ### Taking the port values of a cycle changes `inputs` only. -/

@[simp] theorem advance_st (s : State) : (advance s).st = s.st := rfl
@[simp] theorem advance_opc (s : State) : (advance s).opc = s.opc := rfl
@[simp] theorem advance_len (s : State) : (advance s).len = s.len := rfl
@[simp] theorem advance_cnt (s : State) : (advance s).cnt = s.cnt := rfl
@[simp] theorem advance_acc (s : State) : (advance s).acc = s.acc := rfl
@[simp] theorem advance_buf (s : State) : (advance s).buf = s.buf := rfl
@[simp] theorem advance_out (s : State) : (advance s).out = s.out := rfl
@[simp] theorem advance_cfg (s : State) : (advance s).cfg = s.cfg := rfl
@[simp] theorem advance_inputs (s : State) : (advance s).inputs = s.inputs.tail := rfl

/-! ### NOBYTE and DISCARD (R90, R91) change the output registers only. -/

@[simp] theorem keepRegisters_st (s : State) : (keepRegisters s).st = s.st := rfl
@[simp] theorem keepRegisters_opc (s : State) : (keepRegisters s).opc = s.opc := rfl
@[simp] theorem keepRegisters_len (s : State) : (keepRegisters s).len = s.len := rfl
@[simp] theorem keepRegisters_cnt (s : State) : (keepRegisters s).cnt = s.cnt := rfl
@[simp] theorem keepRegisters_acc (s : State) : (keepRegisters s).acc = s.acc := rfl
@[simp] theorem keepRegisters_buf (s : State) : (keepRegisters s).buf = s.buf := rfl
@[simp] theorem keepRegisters_out (s : State) : (keepRegisters s).out = Outputs.zero := rfl
@[simp] theorem keepRegisters_cfg (s : State) : (keepRegisters s).cfg = s.cfg := rfl
@[simp] theorem keepRegisters_inputs (s : State) : (keepRegisters s).inputs = s.inputs := rfl

/-! ### OPCODE and OPCODE0 (R92, R93). -/

@[simp] theorem acceptOpcode_st (b : Byte) (n : Count) (s : State) : (acceptOpcode b n s).st = if n = 0#2 then .check else .payload := rfl
@[simp] theorem acceptOpcode_opc (b : Byte) (n : Count) (s : State) : (acceptOpcode b n s).opc = b := rfl
@[simp] theorem acceptOpcode_len (b : Byte) (n : Count) (s : State) : (acceptOpcode b n s).len = n := rfl
@[simp] theorem acceptOpcode_cnt (b : Byte) (n : Count) (s : State) : (acceptOpcode b n s).cnt = 0#2 := rfl
@[simp] theorem acceptOpcode_acc (b : Byte) (n : Count) (s : State) : (acceptOpcode b n s).acc = b := rfl
@[simp] theorem acceptOpcode_buf (b : Byte) (n : Count) (s : State) : (acceptOpcode b n s).buf = ⟨0#8, 0#8, 0#8⟩ := rfl
@[simp] theorem acceptOpcode_out (b : Byte) (n : Count) (s : State) : (acceptOpcode b n s).out = Outputs.zero := rfl
@[simp] theorem acceptOpcode_cfg (b : Byte) (n : Count) (s : State) : (acceptOpcode b n s).cfg = s.cfg := rfl
@[simp] theorem acceptOpcode_inputs (b : Byte) (n : Count) (s : State) : (acceptOpcode b n s).inputs = s.inputs := rfl

/-! ### CHECKSUM_BYTE (R96) changes `st` and the output registers only. -/

@[simp] theorem endFrame_st (evs : List Event) (s : State) : (endFrame evs s).st = .idle := rfl
@[simp] theorem endFrame_opc (evs : List Event) (s : State) : (endFrame evs s).opc = s.opc := rfl
@[simp] theorem endFrame_len (evs : List Event) (s : State) : (endFrame evs s).len = s.len := rfl
@[simp] theorem endFrame_cnt (evs : List Event) (s : State) : (endFrame evs s).cnt = s.cnt := rfl
@[simp] theorem endFrame_acc (evs : List Event) (s : State) : (endFrame evs s).acc = s.acc := rfl
@[simp] theorem endFrame_buf (evs : List Event) (s : State) : (endFrame evs s).buf = s.buf := rfl
@[simp] theorem endFrame_out (evs : List Event) (s : State) : (endFrame evs s).out = Outputs.ofEvents evs := rfl
@[simp] theorem endFrame_cfg (evs : List Event) (s : State) : (endFrame evs s).cfg = s.cfg := rfl
@[simp] theorem endFrame_inputs (evs : List Event) (s : State) : (endFrame evs s).inputs = s.inputs := rfl

/-! ### Reset (R170). -/

@[simp] theorem resetRegisters_st (s : State) : (resetRegisters s).st = .idle := rfl
@[simp] theorem resetRegisters_opc (s : State) : (resetRegisters s).opc = 0#8 := rfl
@[simp] theorem resetRegisters_len (s : State) : (resetRegisters s).len = 0#2 := rfl
@[simp] theorem resetRegisters_cnt (s : State) : (resetRegisters s).cnt = 0#2 := rfl
@[simp] theorem resetRegisters_acc (s : State) : (resetRegisters s).acc = 0#8 := rfl
@[simp] theorem resetRegisters_buf (s : State) : (resetRegisters s).buf = ⟨0#8, 0#8, 0#8⟩ := rfl
@[simp] theorem resetRegisters_out (s : State) : (resetRegisters s).out = Outputs.zero := rfl
@[simp] theorem resetRegisters_cfg (s : State) : (resetRegisters s).cfg = s.cfg := rfl
@[simp] theorem resetRegisters_inputs (s : State) : (resetRegisters s).inputs = s.inputs := rfl

/-! ### A placed frame: collected, its checksum byte next on the link. -/

@[simp] theorem placeFrame_st (op : Byte) (p : Payload) (chk : Byte) (s : State) : (placeFrame op p chk s).st = .check := rfl
@[simp] theorem placeFrame_opc (op : Byte) (p : Payload) (chk : Byte) (s : State) : (placeFrame op p chk s).opc = op := rfl
@[simp] theorem placeFrame_len (op : Byte) (p : Payload) (chk : Byte) (s : State) : (placeFrame op p chk s).len = p.len := rfl
@[simp] theorem placeFrame_cnt (op : Byte) (p : Payload) (chk : Byte) (s : State) : (placeFrame op p chk s).cnt = p.len := rfl
@[simp] theorem placeFrame_acc (op : Byte) (p : Payload) (chk : Byte) (s : State) : (placeFrame op p chk s).acc = checksum op p := rfl
@[simp] theorem placeFrame_buf (op : Byte) (p : Payload) (chk : Byte) (s : State) : (placeFrame op p chk s).buf = bufOf p := rfl
@[simp] theorem placeFrame_out (op : Byte) (p : Payload) (chk : Byte) (s : State) : (placeFrame op p chk s).out = s.out := rfl
@[simp] theorem placeFrame_cfg (op : Byte) (p : Payload) (chk : Byte) (s : State) : (placeFrame op p chk s).cfg = s.cfg := rfl
@[simp] theorem placeFrame_inputs (op : Byte) (p : Payload) (chk : Byte) (s : State) : (placeFrame op p chk s).inputs = PortSample.byte chk :: s.inputs := rfl

/-! ### A completed frame (R96, R120) -/

@[simp] theorem completeFrame_st (op : Byte) (p : Payload) (chk : Byte) (h : List Event) (s : State) :
    (completeFrame op p chk h s).st = .idle := rfl
@[simp] theorem completeFrame_opc (op : Byte) (p : Payload) (chk : Byte) (h : List Event) (s : State) :
    (completeFrame op p chk h s).opc = s.opc := rfl
@[simp] theorem completeFrame_len (op : Byte) (p : Payload) (chk : Byte) (h : List Event) (s : State) :
    (completeFrame op p chk h s).len = s.len := rfl
@[simp] theorem completeFrame_cnt (op : Byte) (p : Payload) (chk : Byte) (h : List Event) (s : State) :
    (completeFrame op p chk h s).cnt = s.cnt := rfl
@[simp] theorem completeFrame_acc (op : Byte) (p : Payload) (chk : Byte) (h : List Event) (s : State) :
    (completeFrame op p chk h s).acc = s.acc := rfl
@[simp] theorem completeFrame_buf (op : Byte) (p : Payload) (chk : Byte) (h : List Event) (s : State) :
    (completeFrame op p chk h s).buf = s.buf := rfl
@[simp] theorem completeFrame_out (op : Byte) (p : Payload) (chk : Byte) (h : List Event) (s : State) :
    (completeFrame op p chk h s).out = Outputs.ofEvents (if checksumOK s.acc chk then dispatchEvent op p :: h else []) := rfl
@[simp] theorem completeFrame_cfg (op : Byte) (p : Payload) (chk : Byte) (h : List Event) (s : State) :
    (completeFrame op p chk h s).cfg = s.cfg := rfl
@[simp] theorem completeFrame_inputs (op : Byte) (p : Payload) (chk : Byte) (h : List Event) (s : State) :
    (completeFrame op p chk h s).inputs = s.inputs := rfl

/-! ### The state after reset (R29) -/

@[simp] theorem resetWith_st (c : Config) : (State.resetWith c).st = .idle := rfl
@[simp] theorem resetWith_opc (c : Config) : (State.resetWith c).opc = 0#8 := rfl
@[simp] theorem resetWith_len (c : Config) : (State.resetWith c).len = 0#2 := rfl
@[simp] theorem resetWith_cnt (c : Config) : (State.resetWith c).cnt = 0#2 := rfl
@[simp] theorem resetWith_acc (c : Config) : (State.resetWith c).acc = 0#8 := rfl
@[simp] theorem resetWith_buf (c : Config) : (State.resetWith c).buf = ⟨0#8, 0#8, 0#8⟩ := rfl
@[simp] theorem resetWith_out (c : Config) : (State.resetWith c).out = Outputs.zero := rfl
@[simp] theorem resetWith_cfg (c : Config) : (State.resetWith c).cfg = c := rfl
@[simp] theorem resetWith_inputs (c : Config) : (State.resetWith c).inputs = [] := rfl

end Sys2Proof.Machine
end

