-- ==== Sys2Proof/Laws/Ops.lean ====
section
/-! SUPPORT. One lemma per shared operation that says everything it can do: the output ports, the payload buffer, a stored
payload byte, a frame's end, and the meaning of every instruction. -/

namespace Sys2Proof.Machine

/-! ### Output ports (R22) -/

@[simp] theorem ofEvents_nil : Outputs.ofEvents [] = Outputs.zero := rfl

@[simp] theorem zero_events : Outputs.zero.events = [] := rfl

theorem zero_lanesQuiet : Outputs.zero.LanesQuiet := by constructor <;> intro _ <;> decide

/-- The three payload lanes can be read back from the 24-bit port (D22). -/
theorem payload_lanes (p0 p1 p2 : Byte) :
    (p0 ++ p1 ++ p2 : BitVec 24).extractLsb' 16 8 = p0 ∧ (p0 ++ p1 ++ p2 : BitVec 24).extractLsb' 8 8 = p1 ∧
    (p0 ++ p1 ++ p2 : BitVec 24).extractLsb' 0 8 = p2 := by
  have h0 := p0.isLt
  have h1 := p1.isLt
  have h2 := p2.isLt
  have key : (p0 ++ p1 ++ p2 : BitVec 24).toNat = p0.toNat * 65536 + p1.toNat * 256 + p2.toNat := by
    have e1 : (p0 ++ p1).toNat = p0.toNat * 256 + p1.toNat := by
      rw [BitVec.toNat_append, ← Nat.shiftLeft_add_eq_or_of_lt h1, Nat.shiftLeft_eq]
    have e2 : (p0 ++ p1 ++ p2).toNat = (p0 ++ p1).toNat * 256 + p2.toNat := by
      rw [BitVec.toNat_append, ← Nat.shiftLeft_add_eq_or_of_lt h2, Nat.shiftLeft_eq]
    rw [e2, e1]; omega
  refine ⟨?_, ?_, ?_⟩ <;> apply BitVec.eq_of_toNat_eq <;>
    rw [BitVec.extractLsb'_toNat, Nat.shiftRight_eq_div_pow, key] <;> omega

/-- What a `Dispatch` event drives is read back as that event. -/
theorem dispatch_read_back (op : Byte) (n : Count) (p0 p1 p2 : Byte) :
    (Outputs.zero.drive (.dispatch op n p0 p1 p2)).events = [.dispatch op n p0 p1 p2] := by
  obtain ⟨h0, h1, h2⟩ := payload_lanes p0 p1 p2
  simp only [Outputs.drive, Outputs.zero, Outputs.events]
  rw [h0, h1, h2]
  rfl

/-- At most one collaborator event beside a dispatch: the ports show both, dispatch first. -/
theorem events_of_dispatch_and_one (op : Byte) (n : Count) (p0 p1 p2 : Byte) (h : List Event)
    (hl : h.length ≤ 1) (hd : ∀ e ∈ h, e.isDispatch = false) :
    (Outputs.ofEvents (.dispatch op n p0 p1 p2 :: h)).events = .dispatch op n p0 p1 p2 :: h := by
  obtain ⟨h0, h1, h2⟩ := payload_lanes p0 p1 p2
  rcases h with _ | ⟨e, _ | ⟨e', h'⟩⟩
  · exact dispatch_read_back op n p0 p1 p2
  · have := hd e (by simp)
    cases e <;>
      simp only [Event.isDispatch, Bool.true_eq_false] at this <;>
      simp only [Outputs.ofEvents, List.foldl, Outputs.drive, Outputs.zero, Outputs.events] <;>
      rw [h0, h1, h2]
    case sampleTrigger arg => cases arg <;> rfl
    all_goals rfl
  · simp at hl

/-- The same ports hold 0 in every lane whose strobe is 0. -/
theorem lanesQuiet_of_dispatch_and_one (op : Byte) (n : Count) (p0 p1 p2 : Byte) (h : List Event)
    (hl : h.length ≤ 1) (hd : ∀ e ∈ h, e.isDispatch = false) :
    (Outputs.ofEvents (.dispatch op n p0 p1 p2 :: h)).LanesQuiet := by
  rcases h with _ | ⟨e, _ | ⟨e', h'⟩⟩
  · constructor <;> simp [Outputs.ofEvents, Outputs.drive, Outputs.zero]
  · have := hd e (by simp)
    cases e <;> simp only [Event.isDispatch, Bool.true_eq_false] at this <;>
      constructor <;> simp [Outputs.ofEvents, Outputs.drive, Outputs.zero]
  · simp at hl

/-! ### Payloads and the payload buffer -/

/-- The lanes of a payload are its bytes, then 0 (R120, D22). -/
theorem lanes_eq_bytes (p : Payload) :
    lane0 p = p.bytes.getD 0 0#8 ∧ lane1 p = p.bytes.getD 1 0#8 ∧ lane2 p = p.bytes.getD 2 0#8 := by
  cases p <;> exact ⟨rfl, rfl, rfl⟩

theorem dispatchEvent_eq_frameDispatch (i : Instr) : dispatchEvent i.opcode i.payload = frameDispatch i := by
  obtain ⟨h0, h1, h2⟩ := lanes_eq_bytes i.payload
  simp only [dispatchEvent, frameDispatch, h0, h1, h2]

@[simp] theorem first_len (m : PayloadBuf) (n : Count) : (m.first n).len = n := by
  rcases count_cases n with rfl | rfl | rfl | rfl <;> rfl

/-- A placed payload reads back. -/
theorem bufOf_first (p : Payload) : (bufOf p).first p.len = p := by cases p <;> rfl

/-- The checksum of a payload is the exclusive OR of the opcode and the payload's bytes. -/
theorem checksum_eq_foldl (op : Byte) (p : Payload) : checksum op p = p.bytes.foldl (· ^^^ ·) op := by
  cases p <;> rfl

/-- `buf[cnt] <- b` (R94): below `cnt = 3` exactly that byte changes; `buf[3]` does not exist. -/
theorem write_cases (m : PayloadBuf) (cnt : Count) (b : Byte) :
    (cnt.toNat < 3 ∧ ∃ m', m.write cnt b = some m' ∧ m'.get cnt.toNat = b ∧
      ∀ i, i ≤ 2 → i ≠ cnt.toNat → m'.get i = m.get i) ∨
    (cnt = 3#2 ∧ m.write cnt b = none) := by
  have others : ∀ j, j < 3 → ∀ m' : PayloadBuf,
      ((j ≠ 0 → m'.b0 = m.b0) ∧ (j ≠ 1 → m'.b1 = m.b1) ∧ (j ≠ 2 → m'.b2 = m.b2)) →
      ∀ i, i ≤ 2 → i ≠ j → m'.get i = m.get i := by
    intro j _ m' ⟨h0, h1, h2⟩ i hi hne
    have : i = 0 ∨ i = 1 ∨ i = 2 := by omega
    rcases this with rfl | rfl | rfl
    · exact h0 (Ne.symm hne)
    · exact h1 (Ne.symm hne)
    · exact h2 (Ne.symm hne)
  rcases count_cases cnt with rfl | rfl | rfl | rfl
  · exact .inl ⟨by decide, _, rfl, rfl, others 0 (by decide) _ (by simp)⟩
  · exact .inl ⟨by decide, _, rfl, rfl, others 1 (by decide) _ (by simp)⟩
  · exact .inl ⟨by decide, _, rfl, rfl, others 2 (by decide) _ (by simp)⟩
  · exact .inr ⟨rfl, rfl⟩

/-- R94, R95: below `cnt = 3` the byte is stored, the other registers of the frame move as the rules say, and CHECK is
entered exactly when the payload is complete; with `cnt = 3` there is no such buffer byte. -/
theorem storePayloadByte_cases (b : Byte) (s : State) :
    (s.cnt.toNat < 3 ∧ ∃ t, storePayloadByte b s = .next t ∧ t.opc = s.opc ∧ t.len = s.len ∧
      t.cnt = s.cnt + 1#2 ∧ t.cnt.toNat = s.cnt.toNat + 1 ∧ t.acc = s.acc ^^^ b ∧ t.buf.get s.cnt.toNat = b ∧
      (∀ i, i ≤ 2 → i ≠ s.cnt.toNat → t.buf.get i = s.buf.get i) ∧ t.cfg = s.cfg ∧ t.inputs = s.inputs ∧
      t.out = Outputs.zero ∧
      (s.cnt.toNat + 1 = s.len.toNat → t.st = .check) ∧ (s.cnt.toNat + 1 ≠ s.len.toNat → t.st = .payload)) ∨
    (s.cnt = 3#2 ∧ storePayloadByte b s = .fault .noSuchBufferByte) := by
  rcases write_cases s.buf s.cnt b with ⟨hc, m, hm, hget, hoth⟩ | ⟨hc, hm⟩
  · left
    have hadd : (s.cnt + 1#2).toNat = s.cnt.toNat + 1 := by
      simp only [BitVec.toNat_add, BitVec.toNat_ofNat]; omega
    refine ⟨hc, { s with
        buf := m
        acc := s.acc ^^^ b
        cnt := s.cnt + 1#2
        st := if s.cnt + 1#2 = s.len then .check else .payload
        out := Outputs.ofEvents [] }, by simp [storePayloadByte, hm], rfl, rfl, rfl, hadd, rfl, hget, hoth, rfl, rfl,
      rfl, ?_, ?_⟩
    · intro he
      exact if_pos (BitVec.eq_of_toNat_eq (by rw [hadd, he]))
    · intro he
      exact if_neg (fun h => he (by rw [← hadd, h]))
  · exact .inr ⟨hc, by simp [storePayloadByte, hm]⟩

/-- A checksum byte with no registered opcode: a mismatch drops the frame, a match has no handler (R96, R120). -/
theorem withoutHandler_eq (b : Byte) (s : State) :
    withoutHandler b s = if s.acc = b then .fault .noHandler else .next (endFrame [] s) := by
  by_cases h : s.acc = b <;> simp [withoutHandler, checksumOK, h]

/-! ### The meanings -/

theorem inRange_eq_decide (idx : Byte) (n : Nat) : inRange idx n = decide (idx.toNat < n) := by
  have := idx.isLt
  simp [inRange, BitVec.toNat_setWidth, Nat.mod_eq_of_lt (show idx.toNat < 65536 by omega)]

/-- Every frame instruction is one completed frame with its handler's events (R96, R120 to R130). -/
theorem exec_frame {i : Instr} {chk : Byte} (h : i.chk? = some chk) (s : State) :
    exec i s = .next (completeFrame i.opcode i.payload chk (handlerEvents s.cfg i) s) := by
  cases i <;> cases h <;>
    first
      | rfl
      | simp only [exec, execMotor, execServo, motorHandler, servoHandler, handlerEvents, inRange_eq_decide,
          decide_eq_true_eq, Instr.opcode, Instr.payload]

/-- R91. -/
theorem exec_unregisteredByte (b : Byte) (s : State) : exec (.unregisteredByte b) s = .next (keepRegisters s) := rfl

/-- Every instruction answers a next state, and changes at most `st` and the output registers. -/
theorem exec_next (i : Instr) (s : State) :
    ∃ t, exec i s = .next t ∧ t.regs = ⟨t.st, s.opc, s.len, s.cnt, s.acc, s.buf⟩ ∧ t.cfg = s.cfg ∧ t.inputs = s.inputs ∧
      (t.st = .idle ∨ t.st = s.st) := by
  cases hc : i.chk? with
  | some chk => exact ⟨_, exec_frame hc s, rfl, rfl, rfl, .inl rfl⟩
  | none =>
    cases i <;> cases hc
    exact ⟨_, exec_unregisteredByte _ s, rfl, rfl, rfl, .inr rfl⟩

/-- A handler has at most one event, and none is a dispatch (R131). -/
theorem handlerEvents_shape (c : Config) (i : Instr) :
    (handlerEvents c i).length ≤ 1 ∧ ∀ e ∈ handlerEvents c i, e.isDispatch = false := by
  cases i <;> simp only [handlerEvents] <;> (try split) <;> simp [Event.isDispatch]

end Sys2Proof.Machine
end

