-- ==== Sys2Proof/Laws/PerInstr.lean ====
section
/-! SUPPORT. Statements made for every instruction, one lemma per constructor (LAWS.json). -/

namespace Sys2Proof.Laws.EncodedLength

/-- R60, R61: a frame has 2 + N bytes, N the payload length of its opcode; an unregistered byte is one byte. -/
def Statement (i : Instr) : Prop :=
  ∀ c : Config, i.wf c = true →
    (encode i).length = match Machine.table c i.opcode with
      | none => 1
      | some e => 2 + e.len.toNat

theorem motor (op idx : Byte) (raw : Word16) (chk : Byte) : Statement (.motor op idx raw chk) := by
  intro c h
  simp only [Instr.wf, beq_iff_eq] at h
  simp only [Instr.opcode, h]; rfl

theorem servo (op idx : Byte) (raw : Word16) (chk : Byte) : Statement (.servo op idx raw chk) := by
  intro c h
  simp only [Instr.wf, beq_iff_eq] at h
  simp only [Instr.opcode, h]; rfl

theorem lightsOn (op chk : Byte) : Statement (.lightsOn op chk) := by
  intro c h
  simp only [Instr.wf, beq_iff_eq] at h
  simp only [Instr.opcode, h]; rfl

theorem lightsOff (op chk : Byte) : Statement (.lightsOff op chk) := by
  intro c h
  simp only [Instr.wf, beq_iff_eq] at h
  simp only [Instr.opcode, h]; rfl

theorem masterOn (op chk : Byte) : Statement (.masterOn op chk) := by
  intro c h
  simp only [Instr.wf, beq_iff_eq] at h
  simp only [Instr.opcode, h]; rfl

theorem masterOff (op chk : Byte) : Statement (.masterOff op chk) := by
  intro c h
  simp only [Instr.wf, beq_iff_eq] at h
  simp only [Instr.opcode, h]; rfl

theorem sample (op : Byte) (arg : Option Byte) (chk : Byte) : Statement (.sample op arg chk) := by
  intro c h
  cases arg <;> simp only [Instr.wf, beq_iff_eq] at h <;> simp only [Instr.opcode, h] <;> rfl

theorem generic (op : Byte) (payload : Payload) (chk : Byte) : Statement (.generic op payload chk) := by
  intro c h
  simp only [Instr.wf, beq_iff_eq] at h
  simp only [Instr.opcode, h]
  cases payload <;> rfl

theorem unregisteredByte (b : Byte) : Statement (.unregisteredByte b) := by
  intro c h
  simp only [Instr.wf, beq_iff_eq] at h
  simp only [Instr.opcode, h]; rfl

end Sys2Proof.Laws.EncodedLength
end

