-- ==== Sys2Proof/Laws/Step.lean ====
section
/-! SUPPORT. What one step can do: the inversion every proof about runs cites, and what a run does cycle by cycle. -/

namespace Sys2Proof.Machine

/-- The port values of a cycle, with the cycles after it. -/
theorem currentPorts_of_inputs {s : State} {p : PortSample} {rest : List PortSample} (h : s.inputs = p :: rest) :
    currentPorts s = p ∧ (advance s).inputs = rest := by
  simp [currentPorts, h]

@[simp] theorem rxByte_byte (b : Byte) : rxByte (PortSample.byte b) = some b := rfl

/-- A cycle without reset: what is consumed decides (R97). -/
theorem step_of_noReset {s : State} (h : (currentPorts s).rst = false) :
    step s = match rxByte (currentPorts s) with
      | none => .next (keepRegisters (advance s))
      | some b =>
        match fetchByte s b with
        | .reset => .next (resetRegisters (advance s))
        | .noByte => .next (keepRegisters (advance s))
        | .opcode b n => .next (acceptOpcode b n (advance s))
        | .payloadByte b => storePayloadByte b (advance s)
        | .instr i => exec i (advance s)
        | .notAFrame b => withoutHandler b (advance s) := by
  simp only [step, fetch, h]
  cases rxByte (currentPorts s) <;> rfl

/-- A cycle with reset (R170). -/
theorem step_of_reset {s : State} (h : (currentPorts s).rst = true) :
    step s = .next (resetRegisters (advance s)) := by
  simp only [step, fetch, h]; rfl

/-- Reset is off in a cycle that consumes a byte (R21). -/
theorem rst_of_rxByte {p : PortSample} {b : Byte} (h : rxByte p = some b) : p.rst = false := by
  simp only [rxByte, rxReady, Option.ite_none_right_eq_some, Bool.and_eq_true, Bool.not_eq_true'] at h
  exact h.1.2

/-- The candidate frame in CHECK decodes to a frame with its own bytes, or is no frame at all. -/
theorem fetchByte_check (s : State) (b : Byte) (h : s.st = .check) :
    (∃ i cls, fetchByte s b = .instr i ∧ table s.cfg s.opc = some ⟨cls, s.len⟩ ∧
      instrOf cls s.opc (s.buf.first s.len) b = some i ∧
      i.opcode = s.opc ∧ i.payload = s.buf.first s.len ∧ i.chk? = some b ∧ i.wf s.cfg = true) ∨
    ((∀ cls, table s.cfg s.opc ≠ some ⟨cls, s.len⟩) ∧ fetchByte s b = .notAFrame b) := by
  by_cases hr : ∃ cls, table s.cfg s.opc = some ⟨cls, s.len⟩
  · left
    obtain ⟨cls, ht⟩ := hr
    have ht' : table s.cfg s.opc = some ⟨cls, (s.buf.first s.len).len⟩ := by simpa using ht
    obtain ⟨i, hi⟩ := instrOf_isSome b ht'
    refine ⟨i, cls, ?_, ht, hi, instrOf_eq_some hi ht'⟩
    have htp := takePayload_bytes (s.buf.first s.len) [b]
    rw [first_len] at htp
    simp [fetchByte, h, candidateBytes, decode, ht, htp, hi]
  · right
    have hr' : ∀ cls, table s.cfg s.opc ≠ some ⟨cls, s.len⟩ := fun cls h => hr ⟨cls, h⟩
    refine ⟨hr', ?_⟩
    rcases decode_cons_cases s.cfg s.opc ((s.buf.first s.len).bytes ++ [b]) with ⟨_, hd⟩ | ⟨e, _, _, hd⟩ |
      ⟨e, p, chk, rest', i, ht, hp, hb, hd, _⟩
    · simp only [fetchByte, h, candidateBytes, hd]
      cases hx : (s.buf.first s.len).bytes <;> rfl
    · simp only [fetchByte, h, candidateBytes, hd]
    · have hne : rest' ≠ [] := by
        rintro rfl
        have := congrArg List.length hb
        simp only [List.length_append, Payload.bytes_length, first_len, List.length_cons, List.length_nil] at this
        have hlen : e.len = s.len := by
          apply BitVec.eq_of_toNat_eq
          rw [← hp]; omega
        exact hr' e.cls (by rw [ht, ← hlen])
      simp only [fetchByte, h, candidateBytes, hd]
      cases rest' with
      | nil => exact absurd rfl hne
      | cons => rfl

/-- Everything one step can do when it answers a next state (R97, R170). -/
inductive StepCase (s : State) : State → Prop where
  /-- R170 -/
  | reset (h : (currentPorts s).rst = true) : StepCase s (resetRegisters (advance s))
  /-- R90 -/
  | noByte (h : (currentPorts s).rst = false) (hrx : rxByte (currentPorts s) = none) :
      StepCase s (keepRegisters (advance s))
  /-- R91 -/
  | discard (b : Byte) (hrx : rxByte (currentPorts s) = some b) (hst : s.st = .idle) (ht : table s.cfg b = none) :
      StepCase s (keepRegisters (advance s))
  /-- R92, R93 -/
  | opcode (b : Byte) (e : Entry) (hrx : rxByte (currentPorts s) = some b) (hst : s.st = .idle)
      (ht : table s.cfg b = some e) : StepCase s (acceptOpcode b e.len (advance s))
  /-- R94, R95 -/
  | payloadByte (b : Byte) (t : State) (hrx : rxByte (currentPorts s) = some b) (hst : s.st = .payload)
      (ht : storePayloadByte b (advance s) = .next t) : StepCase s t
  /-- R96, with the frame the registers and the checksum byte make -/
  | checksumByte (b : Byte) (cls : CmdClass) (i : Instr) (hrx : rxByte (currentPorts s) = some b) (hst : s.st = .check)
      (ht : table s.cfg s.opc = some ⟨cls, s.len⟩) (hi : instrOf cls s.opc (s.buf.first s.len) b = some i) :
      StepCase s (completeFrame s.opc (s.buf.first s.len) b (handlerEvents s.cfg i) (advance s))
  /-- a mismatch where the registers hold no registered opcode (ruled out by R28) -/
  | unregistered (b : Byte) (hrx : rxByte (currentPorts s) = some b) (hst : s.st = .check)
      (ht : ∀ cls, table s.cfg s.opc ≠ some ⟨cls, s.len⟩) (hb : s.acc ≠ b) : StepCase s (endFrame [] (advance s))

theorem step_cases {s t : State} (h : step s = .next t) : StepCase s t := by
  by_cases hr : (currentPorts s).rst = true
  · rw [step_of_reset hr] at h
    cases h
    exact .reset hr
  have hr : (currentPorts s).rst = false := by simpa using hr
  rw [step_of_noReset hr] at h
  cases hrx : rxByte (currentPorts s) with
  | none => rw [hrx] at h; cases h; exact .noByte hr hrx
  | some b =>
    simp only [hrx] at h
    cases hst : s.st with
    | idle =>
      cases ht : table s.cfg b with
      | none =>
        simp only [fetchByte, hst, ht, exec_unregisteredByte] at h
        cases h
        exact .discard b hrx hst ht
      | some e =>
        simp only [fetchByte, hst, ht] at h
        cases h
        exact .opcode b e hrx hst ht
    | payload =>
      simp only [fetchByte, hst] at h
      exact .payloadByte b t hrx hst h
    | check =>
      rcases fetchByte_check s b hst with ⟨i, cls, hf, ht, hi, ho, hp, hc, -⟩ | ⟨ht, hf⟩
      · simp only [hf, exec_frame hc, ho, hp, advance_cfg] at h
        cases h
        exact .checksumByte b cls i hrx hst ht hi
      · simp only [hf, withoutHandler_eq] at h
        by_cases hb : (advance s).acc = b
        · rw [if_pos hb] at h
          cases h
        · rw [if_neg hb] at h
          cases h
          exact .unregistered b hrx hst ht hb

/-- When a step stops: only in a state that R28 rules out. -/
theorem step_next_or_stop (s : State) :
    (∃ t, step s = .next t) ∨ (s.st = .payload ∧ s.cnt = 3#2) ∨
      (s.st = .check ∧ ∀ cls, table s.cfg s.opc ≠ some ⟨cls, s.len⟩) := by
  by_cases hr : (currentPorts s).rst = true
  · exact .inl ⟨_, step_of_reset hr⟩
  have hr : (currentPorts s).rst = false := by simpa using hr
  rw [step_of_noReset hr]
  cases hrx : rxByte (currentPorts s) with
  | none => exact .inl ⟨_, rfl⟩
  | some b =>
    cases hst : s.st with
    | idle => cases ht : table s.cfg b <;> simp [fetchByte, hst, ht, exec_unregisteredByte]
    | payload =>
      rcases storePayloadByte_cases b (advance s) with ⟨_, t, ht, _⟩ | ⟨hc, _⟩
      · exact .inl ⟨t, by simpa [fetchByte, hst] using ht⟩
      · exact .inr (.inl ⟨rfl, hc⟩)
    | check =>
      rcases fetchByte_check s b hst with ⟨i, cls, hf, -, -, ho, hp, hc, -⟩ | ⟨ht, hf⟩
      · exact .inl ⟨_, by simp only [hf]; exact exec_frame hc _⟩
      · exact .inr (.inr ⟨rfl, ht⟩)

end Sys2Proof.Machine
end

