-- ==== Sys2Proof/Tests/Slice0.lean ====
section
/-! SUPPORT. Tests: expected values come from spec/95_test_vectors.md (the vector is named) or are worked by hand from the
rule named; then a witness for the hypotheses of each statement. All under the test vectors' `REF` (92 D9). -/

namespace Sys2Proof.Tests

open Machine

/-- A state under `REF` with `(st, opc, len, cnt, acc, buf)` as 95_test_vectors.md writes it. -/
def mk (st : ParserState) (opc : Byte) (len cnt : Count) (acc b0 b1 b2 : Byte) (inputs : List PortSample) : State :=
  { State.resetWith Config.ref with
    st := st, opc := opc, len := len, cnt := cnt, acc := acc, buf := ⟨b0, b1, b2⟩, inputs := inputs }

/-- The registers and the events after one step, or nothing if it stops. -/
def after (s : State) : Option (Regs × List Event) :=
  match step s with
  | .next t => some (t.regs, t.out.events)
  | .fault _ => none
  | .refused _ => none

/-- The events of one instruction from a state in CHECK with the accumulator `acc`. -/
def eventsOf (i : Instr) (acc : Byte) : List Event :=
  match exec i (mk .check 0 0 0 acc 0 0 0 []) with
  | .next t => t.out.events
  | .fault _ => []
  | .refused _ => []

/-! ### Configurations refused (R8) and ill-formed instructions refused (R62, R69) -/

/-- The error a raw configuration is refused with. -/
def refusal (r : RawConfig) : Option ConfigError :=
  match Config.check r with
  | .ok _ => none
  | .error e => some e

theorem test_ref_accepted : refusal refRaw = none := by decide
theorem test_wf1_refused : refusal { refRaw with openRows := [(0x10#8, ⟨.servo, 3⟩)] } = some .fixedOpcode := by decide
theorem test_wf3_refused : refusal { refRaw with openRows := [(0xFF#8, ⟨.generic, 0⟩)] } = some .fixedOpcode := by decide
theorem test_wf4_refused : refusal { refRaw with openRows := [(0x20#8, ⟨.servo, 2⟩)] } = some .actuatorLength := by decide
theorem test_wf5_refused : refusal { refRaw with openRows := [(0x41#8, ⟨.masterOn, 1⟩)] } = some .relayLength := by decide
theorem test_wf6_refused : refusal { refRaw with openRows := [(0x50#8, ⟨.sample, 0⟩)] } = some .sampleLength := by decide
theorem test_wf8_motors_refused : refusal { refRaw with nMotors := 2 } = some .collaboratorCount := by decide
theorem test_wf8_range_refused : refusal { refRaw with servoPwLow := 2400 } = some .pulseRange := by decide
theorem test_sampleLen_refused : refusal { refRaw with openRows := [], sampleLen := 2 } = some .sampleLenField := by decide
theorem test_rowOrder_refused :
    refusal { refRaw with openRows := [(0x60#8, ⟨.generic, 2⟩), (0x60#8, ⟨.generic, 1⟩)] } = some .rowOrder := by decide

theorem test_wf_motor_off_table : (Instr.motor 0x11 0 0 0).wf Config.ref = false := by decide
theorem test_wf_servo_class : (Instr.servo 0x10 0 0 0).wf Config.ref = false := by decide
theorem test_wf_lightsOn_class : (Instr.lightsOn 0x30 0).wf Config.ref = false := by decide
theorem test_wf_lightsOff_class : (Instr.lightsOff 0x31 0).wf Config.ref = false := by decide
theorem test_wf_masterOn_class : (Instr.masterOn 0x40 0).wf Config.ref = false := by decide
theorem test_wf_masterOff_class : (Instr.masterOff 0x41 0).wf Config.ref = false := by decide
theorem test_wf_sample_needs_arg : (Instr.sample 0x50 none 0).wf Config.ref = false := by decide
theorem test_wf_sample_class : (Instr.sample 0x60 (some 0) 0).wf Config.ref = false := by decide
theorem test_wf_generic_length : (Instr.generic 0x60 (.f3 0 0 0) 0).wf Config.ref = false := by decide
theorem test_wf_registered_byte : (Instr.unregisteredByte 0x31).wf Config.ref = false := by decide

/-! ### Decoding: one frame per constructor, byte by byte from R62 (95 section 2.5, P3) -/

theorem test_decode_motor : decode Config.ref [0x10, 0x01, 0xC0, 0x00, 0xD1] = .ok (.motor 0x10 0x01 0xC000 0xD1, []) := rfl
theorem test_decode_servo : decode Config.ref [0x20, 0x01, 0x7F, 0xFF, 0xA1] = .ok (.servo 0x20 0x01 0x7FFF 0xA1, []) := rfl
theorem test_decode_lightsOn : decode Config.ref [0x31, 0x31] = .ok (.lightsOn 0x31 0x31, []) := rfl
theorem test_decode_lightsOff : decode Config.ref [0x30, 0x30] = .ok (.lightsOff 0x30 0x30, []) := rfl
theorem test_decode_masterOn : decode Config.ref [0x41, 0x41] = .ok (.masterOn 0x41 0x41, []) := rfl
theorem test_decode_masterOff : decode Config.ref [0x40, 0x40] = .ok (.masterOff 0x40 0x40, []) := rfl
theorem test_decode_sample : decode Config.ref [0x50, 0x07, 0x57] = .ok (.sample 0x50 (some 0x07) 0x57, []) := rfl
theorem test_decode_generic :
    decode Config.ref [0x60, 0xAA, 0x55, 0x9F] = .ok (.generic 0x60 (.f2 0xAA 0x55) 0x9F, []) := rfl
theorem test_decode_unregistered : decode Config.ref [0xFF, 0x31] = .ok (.unregisteredByte 0xFF, [0x31]) := rfl
theorem test_decode_incomplete : decode Config.ref [0x10, 0x02, 0x00, 0x00] = .error (.incomplete 3) := rfl
theorem test_decode_none : decode Config.ref [] = .error .noByte := rfl
/-- The opcode-table words of the two opcodes every configuration has: the opcode in bits 7..0, zeros above (R69). -/
theorem test_table_word_motor : decodeTableWord 8 0x10 = some (.motor 0x10 0x00 0x0000 0x00) := rfl
theorem test_table_word_lightsOn : decodeTableWord 16 0x3131 = some (.lightsOn 0x31 0x31) := rfl
/-- R84, by hand: valid 1, class GENERIC 7 (111), length 2 (10). -/
theorem test_rom_generic : romWord (table Config.ref 0x60) = 0b111110#6 := by decide

/-! ### Checksum and actuator encoder (95 sections 2.3, 2.4) -/

theorem test_chk_swapped : checksum 0x10 (.f3 0x12 0x34 0x56) = 0x60 ∧ checksum 0x10 (.f3 0x34 0x12 0x56) = 0x60 := by decide
theorem test_linMap_inner : linMap 0x31FF 1000 2000 = 1695 ∧ linMap 0xFFFF 1000 2000 = 1499 := by decide
theorem test_linMap_full : linMap 0xC000 0 65535 = 16384 ∧ linMap 0x7FFE 1499 1500 = 1499 := by decide

/-! ### Byte steps (95 section 2.2) and reset (2.6) -/

theorem test_vp2 : after (mk .payload 0x10 3 1 0x12 2 0 0 []) = some (⟨.payload, 0x10, 3, 1, 0x12, ⟨2, 0, 0⟩⟩, []) := by
  decide
theorem test_vp7 : after (mk .idle 0x10 3 3 0xD1 1 0xC0 0 [.byte 0x60]) =
    some (⟨.payload, 0x60, 2, 0, 0x60, ⟨0, 0, 0⟩⟩, []) := by decide
theorem test_vp9 : after (mk .idle 0 0 0 0 0 0 0 [.byte 0x31]) = some (⟨.check, 0x31, 0, 0, 0x31, ⟨0, 0, 0⟩⟩, []) := by
  decide
theorem test_vp11 : after (mk .payload 0x10 3 1 0x12 2 0 0 [.byte 0xFF]) =
    some (⟨.payload, 0x10, 3, 2, 0xED, ⟨2, 0xFF, 0⟩⟩, []) := by decide
theorem test_vp12 : after (mk .payload 0x50 1 0 0x50 0 0 0 [.byte 0xFF]) =
    some (⟨.check, 0x50, 1, 1, 0xAF, ⟨0xFF, 0, 0⟩⟩, []) := by decide
theorem test_vp14 : after (mk .check 0x10 3 3 0x12 2 0 0 [.byte 0x12]) =
    some (⟨.idle, 0x10, 3, 3, 0x12, ⟨2, 0, 0⟩⟩, [.dispatch 0x10 3 2 0 0, .motorWrite 2 1500]) := by decide
theorem test_vp15 : after (mk .check 0x10 3 3 0x12 2 0 0 [.byte 0x13]) =
    some (⟨.idle, 0x10, 3, 3, 0x12, ⟨2, 0, 0⟩⟩, []) := by decide
theorem test_vp16 : after (mk .check 0x31 0 0 0x31 0 0 0 [.byte 0x10]) =
    some (⟨.idle, 0x31, 0, 0, 0x31, ⟨0, 0, 0⟩⟩, []) := by decide
theorem test_vr1 : after (mk .check 0x10 3 3 0x12 2 0 0 [⟨true, true, 0x12⟩]) =
    some (⟨.idle, 0, 0, 0, 0, ⟨0, 0, 0⟩⟩, []) := by decide
/-- P2 step 15: a misframed match is dispatched like any other frame (R101). -/
theorem test_p2_spurious : after (mk .check 0x60 2 2 0x60 0x31 0x31 0 [.byte 0x60]) =
    some (⟨.idle, 0x60, 2, 2, 0x60, ⟨0x31, 0x31, 0⟩⟩, [.dispatch 0x60 2 0x31 0x31 0]) := by decide

/-! ### Handlers (95 section 2.5) -/

theorem test_motor_last_index : eventsOf (.motor 0x10 3 0x7FFF 0x93) 0x93 =
    [.dispatch 0x10 3 3 0x7F 0xFF, .motorWrite 3 2000] := by decide
theorem test_motor_index_ignored : eventsOf (.motor 0x10 4 0 0x14) 0x14 = [.dispatch 0x10 3 4 0 0] := by decide
theorem test_servo_value : eventsOf (.servo 0x20 1 0xC000 0xE1) 0xE1 =
    [.dispatch 0x20 3 1 0xC0 0, .servoWrite 1 1050] := by decide
theorem test_servo_index_ignored : eventsOf (.servo 0x20 2 0 0x22) 0x22 = [.dispatch 0x20 3 2 0 0] := by decide
theorem test_lightsOn : eventsOf (.lightsOn 0x31 0x31) 0x31 = [.dispatch 0x31 0 0 0 0, .lightsSet true] := by decide
theorem test_lightsOff : eventsOf (.lightsOff 0x30 0x30) 0x30 = [.dispatch 0x30 0 0 0 0, .lightsSet false] := by decide
theorem test_masterOn : eventsOf (.masterOn 0x41 0x41) 0x41 = [.dispatch 0x41 0 0 0 0, .masterSet true] := by decide
theorem test_masterOff : eventsOf (.masterOff 0x40 0x40) 0x40 = [.dispatch 0x40 0 0 0 0, .masterSet false] := by decide
theorem test_sample_arg : eventsOf (.sample 0x50 (some 0xFF) 0xAF) 0xAF =
    [.dispatch 0x50 1 0xFF 0 0, .sampleTrigger (some 0xFF)] := by decide
theorem test_sample_none : eventsOf (.sample 0x50 none 0x50) 0x50 = [.dispatch 0x50 0 0 0 0, .sampleTrigger none] := by decide
theorem test_generic : eventsOf (.generic 0x60 (.f2 0xAA 0x55) 0x9F) 0x9F = [.dispatch 0x60 2 0xAA 0x55 0] := by decide
theorem test_unregistered : after (mk .idle 0 0 0 0 0 0 0 [.byte 0xFF]) = some (⟨.idle, 0, 0, 0, 0, ⟨0, 0, 0⟩⟩, []) := by
  decide
/-- P1 in the notation of R70: `MOTOR 1, -16384` is `10 01 C0 00 D1`. -/
theorem test_notation : assemble [.frame (.motor 0x10 1 (-16384)), .idle 1] =
    [.byte 0x10, .byte 0x01, .byte 0xC0, .byte 0x00, .byte 0xD1, .quiet] := by decide
/-- After reset, the opcode-table word of LIGHTS_ON placed by `withFetchWord` runs as the first instruction. -/
theorem test_first_instruction : after (State.reset.withFetchWord 16 0x3131) =
    some (⟨.idle, 0x31, 0, 0, 0x31, ⟨0, 0, 0⟩⟩, [.dispatch 0x31 0 0 0 0, .lightsSet true]) := by decide

/-! ### Witnesses: states and operands that meet the hypotheses of each statement -/

/-- The invariants hold in IDLE whatever the other registers are. -/
theorem inv_of_idle {s : State} (h : s.st = .idle) : s.Inv := by
  constructor <;> intro h' <;> rw [h] at h' <;> simp at h'

/-- A MOTOR frame with one payload byte collected (VP2). -/
def midPayload (inputs : List PortSample) : State := mk .payload 0x10 3 1 0x12 2 0 0 inputs

/-- A MOTOR frame with two payload bytes collected (VP13). -/
def lastPayload (inputs : List PortSample) : State := mk .payload 0x10 3 2 0x12 2 0 0 inputs

/-- A MOTOR frame that waits for its checksum byte (VP14). -/
def awaiting (inputs : List PortSample) : State := mk .check 0x10 3 3 0x12 2 0 0 inputs

theorem wit_inv_payload (inputs : List PortSample) : (midPayload inputs).Inv := by
  refine ⟨fun _ => ⟨.motor, rfl⟩, fun _ => ⟨by simp [midPayload, mk], by simp [midPayload, mk]⟩,
    fun h => (by simp [midPayload, mk] at h), fun _ => by simp [midPayload, mk, List.range_succ, PayloadBuf.get], fun _ i h1 h2 => ?_⟩
  have : i = 1 ∨ i = 2 := by
    have : 1 ≤ i := h1
    omega
  rcases this with rfl | rfl <;> rfl

theorem wit_inv_check (inputs : List PortSample) : (awaiting inputs).Inv := by
  refine ⟨fun _ => ⟨.motor, rfl⟩, fun h => (by simp [awaiting, mk] at h), fun _ => rfl,
    fun _ => by simp [awaiting, mk, List.range_succ, PayloadBuf.get],
    fun _ i h1 h2 => ?_⟩
  have : 3 ≤ i := h1
  omega

theorem wit_EveryWellFormedTableIsAConfiguration :
    table Config.ref 0x10 = some ⟨.motor, 3⟩ ∧ table Config.ref 0x31 = some ⟨.lightsOn, 0⟩ ∧
    table Config.ref 0xFF = none ∧
    (∀ b e, table Config.ref b = some e →
      (e.cls = .motor ∨ e.cls = .servo → e.len = 3#2) ∧
      (e.cls = .lightsOn ∨ e.cls = .lightsOff ∨ e.cls = .masterOn ∨ e.cls = .masterOff → e.len = 0#2) ∧
      (e.cls = .sample → e.len.toNat = 1)) ∧
    3 ≤ 3 ∧ 3 ≤ 256 ∧ 0 ≤ 256 ∧ 1 ≤ 1 ∧ (0#16).toNat < (1#16).toNat ∧ (65534#16).toNat < (65535#16).toNat :=
  ⟨rfl, rfl, rfl, fun _ _ h => ⟨actuator_len h, relay_len h, sample_len h⟩, by decide⟩

theorem wit_ConfigurationsMeetWellFormedness : table Config.ref 0x50 = some ⟨.sample, 1⟩ := by decide

/-- A word with `valid = 1` and a word with `valid = 0` whose other bits are set. -/
theorem wit_RomWordsCarryTheirEntries : (0b111110#6).getLsbD 5 = true ∧ (0b011111#6).getLsbD 5 = false := by decide

theorem wit_OutputPortsAreQuietWithoutEvents : ∃ t, step (awaiting [.byte 0x12]) = .next t := ⟨_, rfl⟩

theorem wit_NoRunChangesTheTable : ∃ t, run 1 (midPayload [.byte 0xFF]) = .next t := ⟨_, rfl⟩

/-- One instruction of every constructor that `REF` gives, and SAMPLE without an argument under SAMPLE_LEN = 0. -/
theorem wit_DecodeOfEncodeIsTheInstruction :
    (Instr.motor 0x10 0xFF 0x8000 0).wf Config.ref ∧ (Instr.servo 0x20 0 0xFFFF 0xFF).wf Config.ref ∧
    (Instr.lightsOn 0x31 0).wf Config.ref ∧ (Instr.lightsOff 0x30 0).wf Config.ref ∧ (Instr.masterOn 0x41 0).wf Config.ref ∧
    (Instr.masterOff 0x40 0).wf Config.ref ∧ (Instr.sample 0x50 (some 0) 0).wf Config.ref ∧
    (Instr.generic 0x60 (.f2 0 0xFF) 0).wf Config.ref ∧ (Instr.unregisteredByte 0xFF).wf Config.ref ∧
    (Instr.sample 0x50 none 0).wf ⟨{ refRaw with openRows := [(0x50#8, ⟨.sample, 0⟩)], sampleLen := 0 }, by decide⟩ := by
  decide

theorem wit_EncodeOfDecodeIsTheBytes :
    decode Config.ref [0x50, 0xFF, 0xAF, 0x31] = .ok (.sample 0x50 (some 0xFF) 0xAF, [0x31]) := rfl

/-- No opcode; an opcode with one byte too few; an opcode with just enough, at the shortest and the longest length. -/
theorem wit_FirstByteDecidesFrameLength :
    table Config.ref 0xFF = none ∧
    (table Config.ref 0x31 = some ⟨.lightsOn, 0⟩ ∧ ([] : List Byte).length < (0#2 : Count).toNat + 1 ∧
      (0#2 : Count).toNat + 1 ≤ ([0x31] : List Byte).length) ∧
    (table Config.ref 0x10 = some ⟨.motor, 3⟩ ∧ ([1, 2, 3] : List Byte).length < (3#2 : Count).toNat + 1 ∧
      (3#2 : Count).toNat + 1 ≤ ([1, 2, 3, 4] : List Byte).length) := by decide

theorem wit_ActuatorValueIsBigEndian :
    table Config.ref 0x10 = some ⟨.motor, 3⟩ ∧ table Config.ref 0x20 = some ⟨.servo, 3⟩ := by decide

theorem wit_ValidFramesXorToZero : (Instr.lightsOn 0x31 0x31).chk?.isSome = true := rfl

/-- 95 section 2.3: bit 7 flipped in bytes 2 and 3 of a valid MOTOR frame. -/
theorem wit_UndetectedCorruptionsFlipEvenly :
    (Instr.motor 0x10 2 0 0x12).chk?.isSome = true ∧ (Instr.motor 0x10 2 0x8080 0x12).chk?.isSome = true ∧
    (encode (.motor 0x10 2 0 0x12)).length = (encode (.motor 0x10 2 0x8080 0x12)).length ∧
    (Instr.motor 0x10 2 0 0x12).valid := by decide

theorem wit_AccumulatorComparisonIsTheChecksumTest : (awaiting []).Inv ∧ (awaiting []).st = .check :=
  ⟨wit_inv_check [], rfl⟩

/-- The narrowest and the widest range. -/
theorem wit_LinMap : (0#16).toNat < (1#16).toNat ∧ (0#16).toNat < (65535#16).toNat := by decide

theorem wit_IndexRangeIsUnsignedFromZero : (0 : Nat) ≤ 256 ∧ (256 : Nat) ≤ 256 := by decide

theorem wit_SampleFrameTriggersASample :
    (Instr.sample 0x50 (some 0) (awaiting []).acc).wf (awaiting []).cfg = true := by decide

theorem wit_MismatchedFrameIsDroppedInSilence :
    (Instr.motor 0x10 2 0 0x13).chk? = some 0x13 ∧ (0x13 : Byte) ≠ (awaiting []).acc := by decide

theorem wit_ValidatedFrameDispatchesExactlyOnce : (Instr.motor 0x10 2 0 0x12).chk? = some (awaiting []).acc := by decide

theorem wit_HeldByteIsConsumedNext : holdsBytes [⟨true, true, 0x31⟩, .byte 0x31] = true := by decide

theorem wit_NoByteChangesNoRegister : (midPayload [⟨false, false, 0xFF⟩]).inputs = ⟨false, false, 0xFF⟩ :: [] := rfl

theorem wit_PartialFrameWaitsHoweverLong :
    (midPayload [.quiet, .quiet]).inputs = [.quiet, .quiet] ++ [] ∧ noReset [.quiet, .quiet] = true ∧
    consumed [.quiet, .quiet] = [] := by decide

theorem wit_UnregisteredByteInIdleIsDiscarded :
    (State.resetWith Config.ref).st = .idle ∧ table Config.ref 0xFF = none ∧
    (mk .idle 0 0 0 0 0 0 0 [.byte 0xFF]).inputs = .byte 0xFF :: [] := by decide

/-- Length 0 (CHECK next) and length 3 (PAYLOAD next). -/
theorem wit_OpcodeByteStartsAFrame :
    table Config.ref 0x31 = some ⟨.lightsOn, 0⟩ ∧ table Config.ref 0x10 = some ⟨.motor, 3⟩ ∧
    (mk .idle 0 0 0 0 0 0 0 [.byte 0x31]).inputs = .byte 0x31 :: [] ∧
    (mk .idle 0 0 0 0 0 0 0 [.byte 0x10]).inputs = .byte 0x10 :: [] := by decide

theorem wit_PayloadByteIsStoredAndAccumulated :
    (midPayload [.byte 0x31]).st = .payload ∧ (midPayload []).cnt.toNat + 1 < (midPayload []).len.toNat ∧
    (midPayload [.byte 0x31]).inputs = .byte 0x31 :: [] := by decide

/-- With payload length 3, and with length 1 straight after the opcode (VP12). -/
theorem wit_LastPayloadByteAwaitsTheChecksum :
    ((lastPayload []).cnt.toNat + 1 = (lastPayload []).len.toNat ∧
      (lastPayload [.byte 0xFF]).inputs = .byte 0xFF :: []) ∧
    (mk .payload 0x50 1 0 0x50 0 0 0 []).cnt.toNat + 1 = (mk .payload 0x50 1 0 0x50 0 0 0 []).len.toNat := by decide

/-- A matching and a mismatching checksum byte. -/
theorem wit_ChecksumByteEndsTheFrame :
    (awaiting [.byte 0x12]).Inv ∧ (awaiting [.byte 0x12]).acc = 0x12 ∧ (awaiting [.byte 0x13]).Inv ∧
    (awaiting [.byte 0x13]).acc ≠ 0x13 :=
  ⟨wit_inv_check _, by decide, wit_inv_check _, by decide⟩

/-- The checksum byte of a frame in CHECK; an unregistered byte in IDLE. -/
theorem wit_StepRunsTheDecodedInstruction :
    (rxByte (currentPorts (awaiting [.byte 0x12])) = some 0x12 ∧
      decode Config.ref (candidateBytes (awaiting [.byte 0x12]) 0x12) = .ok (.motor 0x10 2 0 0x12, [])) ∧
    (rxByte (currentPorts (mk .idle 0 0 0 0 0 0 0 [.byte 0xFF])) = some 0xFF ∧
      decode Config.ref [0xFF] = .ok (.unregisteredByte 0xFF, [])) := ⟨⟨rfl, rfl⟩, rfl, rfl⟩

theorem wit_PlacedWordRunsNext :
    decode State.reset.cfg (tableWordBytes 16 0x3131) = .ok (.lightsOn 0x31 0x31, [0, 0, 0]) := rfl

theorem wit_ResetInput :
    (awaiting [⟨true, true, 0x12⟩]).inputs = ⟨true, true, 0x12⟩ :: [] ∧ (⟨true, true, 0x12⟩ : PortSample).rst = true :=
  ⟨rfl, rfl⟩

/-- Steps in each parser state that keep or leave it, from states with the invariants. -/
theorem wit_EveryStepKeepsTheInvariants :
    (∃ t, step (midPayload [.byte 0xFF]) = .next t ∧ t.st = .payload) ∧
    (∃ t, step (awaiting [.byte 0x13]) = .next t ∧ t.st = .idle) := ⟨⟨_, rfl, rfl⟩, ⟨_, rfl, rfl⟩⟩

theorem wit_StepIsTheSpecifiedStepFunction :
    (midPayload [.byte 0]).Inv ∧ (currentPorts (midPayload [.byte 0])).rst = false := ⟨wit_inv_payload _, rfl⟩

theorem wit_NoInputEverStopsTheBlock : (State.resetWith Config.ref).Inv := inv_of_idle rfl

theorem wit_EventsOnlyOnAMatchingChecksumByte :
    ∃ t, step (awaiting [.byte 0x12]) = .next t ∧ t.out.events ≠ [] := ⟨_, rfl, by decide⟩

/-- Two idle blocks with different left-over registers. -/
theorem wit_IdleRegistersAreNeverRead :
    (mk .idle 0x10 3 3 0xD1 1 0xC0 0 [.byte 0x31, .byte 0x31]).st = .idle ∧
    (mk .idle 0 0 0 0 0 0 0 [.byte 0x31, .byte 0x31]).inputs =
      (mk .idle 0x10 3 3 0xD1 1 0xC0 0 [.byte 0x31, .byte 0x31]).inputs := ⟨rfl, rfl⟩

theorem wit_GapsBetweenBytesDoNotMatter :
    (midPayload [.byte 7]).Inv ∧ (midPayload [.byte 7]).regs = (midPayload [.quiet, .byte 7]).regs ∧
    noReset [.byte 7] = true ∧ noReset [.quiet, .byte 7] = true ∧ consumed [.byte 7] = consumed [.quiet, .byte 7] :=
  ⟨wit_inv_payload _, rfl, rfl, rfl, rfl⟩

/-- A LIGHTS_ON frame with a gap, once valid and once not. -/
theorem wit_FrameFromIdleCompletes :
    (Instr.lightsOn 0x31 0x31).wf Config.ref = true ∧ noReset [.byte 0x31, .quiet, .byte 0x31] = true ∧
    consumed [.byte 0x31, .quiet, .byte 0x31] = encode (.lightsOn 0x31 0x31) ∧ (Instr.lightsOn 0x31 0x31).valid ∧
    ¬ (Instr.lightsOn 0x31 0x30).valid ∧ consumed ([.byte 0x31, .quiet, .byte 0x31].take 1) ≠ [] := by decide

/-- S3: 0xFF, then a LIGHTS_ON frame. -/
theorem wit_FramesDispatchInArrivalOrder :
    (∀ i ∈ [Instr.unregisteredByte 0xFF, .lightsOn 0x31 0x31], i.wf Config.ref = true) ∧
    consumed [.byte 0xFF, .byte 0x31, .quiet, .byte 0x31] =
      [Instr.unregisteredByte 0xFF, .lightsOn 0x31 0x31].flatMap encode := by decide

theorem wit_FourBytes :
    (midPayload [.byte 0xFF, .byte 0xFF, .quiet, .byte 0xFF, .byte 0xFF]).Inv ∧
    noReset [.byte 0xFF, .byte 0xFF, .quiet, .byte 0xFF, .byte 0xFF] = true ∧
    consumed [.byte 0xFF, .byte 0xFF, .quiet, .byte 0xFF, .byte 0xFF] = List.replicate 4 0xFF#8 :=
  ⟨wit_inv_payload _, rfl, rfl⟩

end Sys2Proof.Tests
end

section
/-! PROOFS. The family 00_scope.md: every configuration meets WF1 to WF8 (R8), and every table and field values that meet
them are those of some configuration (R8, R9). -/

namespace Sys2Proof

/-- WF1 to WF3 on a row, as a proposition. -/
theorem rowKeepsFixed_iff (row : Byte × Entry) :
    rowKeepsFixed row = true ↔ row.1 ≠ 0x10#8 ∧ row.1 ≠ 0x31#8 ∧ row.1 ≠ 0xFF#8 := by
  simp [rowKeepsFixed, and_assoc]

/-- WF4 on a row, as a proposition. -/
theorem rowActuatorLen_iff (row : Byte × Entry) :
    rowActuatorLen row = true ↔ (row.2.cls = .motor ∨ row.2.cls = .servo → row.2.len = 3#2) := by
  unfold rowActuatorLen
  cases row.2.cls <;> simp

/-- WF5 on a row, as a proposition. -/
theorem rowRelayLen_iff (row : Byte × Entry) :
    rowRelayLen row = true ↔ (row.2.cls = .lightsOn ∨ row.2.cls = .lightsOff ∨ row.2.cls = .masterOn ∨
      row.2.cls = .masterOff → row.2.len = 0#2) := by
  unfold rowRelayLen
  cases row.2.cls <;> simp

/-- WF6 on a row, as a proposition. -/
theorem rowSampleLen_iff (sampleLen : Nat) (row : Byte × Entry) :
    rowSampleLen sampleLen row = true ↔ (row.2.cls = .sample → row.2.len.toNat = sampleLen) := by
  unfold rowSampleLen
  cases row.2.cls <;> simp

/-- R8's checks, one conjunct each. -/
theorem RawConfig.wf_iff {r : RawConfig} :
    r.wf = true ↔
      (∀ row ∈ r.openRows, rowKeepsFixed row = true) ∧ (∀ row ∈ r.openRows, rowActuatorLen row = true) ∧
      (∀ row ∈ r.openRows, rowRelayLen row = true) ∧ (∀ row ∈ r.openRows, rowSampleLen r.sampleLen row = true) ∧
      (3 ≤ r.nMotors ∧ r.nMotors ≤ 256 ∧ r.nServos ≤ 256) ∧
      (r.motorPwLow.toNat < r.motorPwHigh.toNat ∧ r.servoPwLow.toNat < r.servoPwHigh.toNat) ∧
      r.sampleLen ≤ 1 ∧ rowsRising r.openRows = true := by
  simp only [RawConfig.wf, RawConfig.checks, List.all_cons, List.all_nil, Bool.and_eq_true, Bool.and_true,
    List.all_eq_true, decide_eq_true_eq, BitVec.ult]

/-- Rows whose opcodes rise pairwise pass the row-order check. -/
theorem rowsRising_of_pairwise {rows : List (Byte × Entry)} (h : rows.Pairwise fun x y => x.1 < y.1) :
    rowsRising rows = true := by
  induction rows with
  | nil => rfl
  | cons x rest ih =>
    obtain ⟨hx, hrest⟩ := List.pairwise_cons.mp h
    cases rest with
    | nil => rfl
    | cons y rest => simpa [rowsRising, BitVec.ult_iff_lt, hx y] using ih hrest

/-- A raw configuration is accepted unchanged, or it is ill formed and refused. -/
theorem Config.check_cases (r : RawConfig) :
    (∃ c, Config.check r = .ok c ∧ c.raw = r) ∨ (r.wf = false ∧ ∃ e, Config.check r = .error e) := by
  by_cases h : r.wf = true
  · exact .inl ⟨⟨r, h⟩, dif_pos h, rfl⟩
  · exact .inr ⟨eq_false_of_ne_true h, _, dif_neg h⟩

namespace Machine

/-- Settles O1, from one law of the table per condition of R8 and the two answers of `Config.check`. -/
theorem configurationsMeetWellFormedness : Obligations.ConfigurationsMeetWellFormedness := by
  refine ⟨fun c => ?_, Config.check_cases⟩
  obtain ⟨hM, hM', hS⟩ := counts_wf c
  exact ⟨rfl, rfl, rfl,
    fun b e h => ⟨actuator_len h, relay_len h, sample_len h, Nat.le_of_lt_succ e.len.isLt⟩,
    hM, hM', hS, sampleLen_wf c, ranges_wf c⟩

/-- The byte values whose entries R8 leaves open, rising. -/
def openBytes : List Byte :=
  ((List.finRange 256).map BitVec.ofFin).filter fun b => b != 0x10#8 && b != 0x31#8 && b != 0xFF#8

@[simp] theorem mem_openBytes {b : Byte} : b ∈ openBytes ↔ b ≠ 0x10#8 ∧ b ≠ 0x31#8 ∧ b ≠ 0xFF#8 := by
  have hb : ∃ n, BitVec.ofFin n = b := ⟨b.toFin, rfl⟩
  simp [openBytes, hb, and_assoc]

theorem openBytes_rising : openBytes.Pairwise (· < ·) :=
  List.Pairwise.filter _ (List.pairwise_map.mpr (List.pairwise_lt_finRange 256))

/-- The rows that a function from bytes to entries gives a list of byte values. -/
def rowsOf (f : Byte → Option Entry) (bs : List Byte) : List (Byte × Entry) :=
  bs.filterMap fun b => (f b).map (b, ·)

@[simp] theorem mem_rowsOf {f : Byte → Option Entry} {bs : List Byte} {b : Byte} {e : Entry} :
    (b, e) ∈ rowsOf f bs ↔ b ∈ bs ∧ f b = some e := by
  simp [rowsOf]

theorem rowsRising_rowsOf (f : Byte → Option Entry) {bs : List Byte} (h : bs.Pairwise (· < ·)) :
    rowsRising (rowsOf f bs) = true := by
  refine rowsRising_of_pairwise (h.filterMap _ fun b b' hlt row hrow row' hrow' => ?_)
  obtain ⟨e, -, rfl⟩ := Option.map_eq_some_iff.mp hrow
  obtain ⟨e', -, rfl⟩ := Option.map_eq_some_iff.mp hrow'
  exact hlt

/-- A byte whose look-up fails has no row. -/
theorem not_mem_of_lookupRow_eq_none {rows : List (Byte × Entry)} {b : Byte} (h : lookupRow rows b = none) (e : Entry) :
    (b, e) ∉ rows := by
  induction rows with
  | nil => simp
  | cons row rest ih =>
    obtain ⟨k, e'⟩ := row
    rw [lookupRow] at h
    split at h
    · cases h
    · next hk => simp [Ne.symm hk, ih h]

/-- Looking a listed byte up in the rows of `f` answers what `f` answers. -/
theorem lookupRow_rowsOf (f : Byte → Option Entry) {bs : List Byte} {b : Byte} (hb : b ∈ bs) :
    lookupRow (rowsOf f bs) b = f b := by
  cases h : lookupRow (rowsOf f bs) b with
  | some e => exact (mem_rowsOf.mp (lookupRow_mem h)).2.symm
  | none =>
    refine (Option.eq_none_iff_forall_ne_some.mpr fun e he => ?_).symm
    exact not_mem_of_lookupRow_eq_none h e (mem_rowsOf.mpr ⟨hb, he⟩)

/-- A configuration whose open rows are those of `f` has `f` as its table, if `f` has R8's three fixed entries. -/
theorem table_of_openRows_eq_rowsOf {c : Config} {f : Byte → Option Entry} (hrows : c.raw.openRows = rowsOf f openBytes)
    (h10 : f 0x10#8 = some ⟨.motor, 3#2⟩) (h31 : f 0x31#8 = some ⟨.lightsOn, 0#2⟩) (hFF : f 0xFF#8 = none) (b : Byte) :
    table c b = f b := by
  by_cases hb : b ∈ openBytes
  · obtain ⟨hb10, hb31, hbFF⟩ := mem_openBytes.mp hb
    simp only [table, hb10, hb31, hbFF, if_false, hrows, lookupRow_rowsOf f hb]
  · have hfixed : b = 0x10#8 ∨ b = 0x31#8 ∨ b = 0xFF#8 := by
      simpa only [mem_openBytes, not_and_or, not_not] using hb
    rcases hfixed with rfl | rfl | rfl
    · exact h10.symm
    · exact h31.symm
    · exact hFF.symm

/-- Settles O2: the configuration's open rows are those that `f` gives the open byte values, in rising order. -/
theorem everyWellFormedTableIsAConfiguration : Obligations.EveryWellFormedTableIsAConfiguration := by
  intro f nM nS sl mLo mHi sLo sHi h10 h31 hFF hlen hM hM' hS hsl hm hs
  have hwf : (RawConfig.mk (rowsOf f openBytes) nM nS mLo mHi sLo sHi sl).wf = true := by
    refine RawConfig.wf_iff.mpr ⟨?_, ?_, ?_, ?_, ⟨hM, hM', hS⟩, ⟨hm, hs⟩, hsl, rowsRising_rowsOf f openBytes_rising⟩
    all_goals
      rintro ⟨b, e⟩ hrow
      obtain ⟨hb, he⟩ := mem_rowsOf.mp hrow
      obtain ⟨hact, hrel, hsam⟩ := hlen b e he
    · exact (rowKeepsFixed_iff _).mpr (mem_openBytes.mp hb)
    · exact (rowActuatorLen_iff _).mpr hact
    · exact (rowRelayLen_iff _).mpr hrel
    · exact (rowSampleLen_iff _ _).mpr hsam
  exact ⟨⟨_, hwf⟩, table_of_openRows_eq_rowsOf rfl h10 h31 hFF, rfl, rfl, rfl, rfl, rfl, rfl, rfl⟩

end Machine
end Sys2Proof
end

section
/-! PROOFS. The family 10_state.md: the input handshake and output ports (R21, R22), the codes of the parser state (R27), the
invariants I1 to I5 at reset and under every step (R28), waiting (R30), and the left-over registers in IDLE (R28). -/

namespace Sys2Proof.Machine

/-! ### The invariants of R28 -/

/-- In IDLE the invariants ask nothing of the other registers. -/
theorem State.Inv.of_idle {s : State} (h : s.st = .idle) : s.Inv where
  i1 hne := absurd h hne
  i2 hp := by simp [h] at hp
  i3 hc := by simp [h] at hc
  i4 hne := absurd h hne
  i5 hne := absurd h hne

/-- The invariants speak of the registers of R20 and the configuration alone. -/
theorem State.Inv.of_regs_eq {s t : State} (h : s.Inv) (hr : t.regs = s.regs) (hc : t.cfg = s.cfg) : t.Inv := by
  obtain ⟨st, opc, len, cnt, acc, buf, out, cfg, inputs⟩ := t
  simp only [State.regs, Regs.mk.injEq] at hr hc
  obtain ⟨rfl, rfl, rfl, rfl, rfl, rfl⟩ := hr
  subst hc
  exact ⟨h.i1, h.i2, h.i3, h.i4, h.i5⟩

/-- OPCODE and OPCODE0 (R92, R93): a registered opcode starts a frame with nothing collected. -/
theorem acceptOpcode_inv {s : State} {b : Byte} {e : Entry} (ht : table s.cfg b = some e) :
    (acceptOpcode b e.len s).Inv where
  i1 _ := ⟨e.cls, ht⟩
  i2 hst := by
    have hlen : e.len ≠ 0#2 := fun h => by simp [h] at hst
    have hpos : 0 < e.len.toNat := Nat.pos_of_ne_zero fun h => hlen (BitVec.eq_of_toNat_eq h)
    exact ⟨hpos, hpos⟩
  i3 hst := by
    have hlen : e.len = 0#2 := by_contra fun h => by simp [h] at hst
    exact hlen.symm
  i4 _ := rfl
  i5 _ i _ hi := by interval_cases i <;> rfl

/-- PAYLOAD_BYTE and LAST_PAYLOAD_BYTE (R94, R95): the stored byte joins the collected ones, and those from it on stay 0. -/
theorem storePayloadByte_inv {s t : State} {b : Byte} (h : s.Inv) (hst : s.st = .payload)
    (ht : storePayloadByte b s = .next t) : t.Inv := by
  rcases storePayloadByte_cases b s with
    ⟨-, t', ht', hopc, hlen, -, hcnt, hacc, hget, hoth, hcfg, -, -, hcheck, hpayload⟩ | ⟨-, hf⟩
  · cases ht.symm.trans ht'
    have hne : s.st ≠ .idle := by simp [hst]
    obtain ⟨-, hlt⟩ := h.i2 hst
    constructor
    case i1 =>
      intro _
      simpa only [hcfg, hopc, hlen] using h.i1 hne
    case i2 =>
      intro htst
      have : s.cnt.toNat + 1 ≠ s.len.toNat := fun heq => by simp [hcheck heq] at htst
      rw [hlen, hcnt]
      omega
    case i3 =>
      intro htst
      have : s.cnt.toNat + 1 = s.len.toNat := by
        by_contra hneq
        simp [hpayload hneq] at htst
      exact BitVec.eq_of_toNat_eq (by rw [hcnt, hlen, this])
    case i4 =>
      intro _
      have hcollected : (List.range s.cnt.toNat).foldl (fun x i => x ^^^ t.buf.get i) s.opc =
          (List.range s.cnt.toNat).foldl (fun x i => x ^^^ s.buf.get i) s.opc := by
        refine List.foldl_ext _ _ _ fun x i hi => ?_
        have := List.mem_range.mp hi
        rw [hoth i (by omega) (by omega)]
      rw [hcnt, List.range_succ, List.foldl_concat, hopc, hcollected, hget, hacc, h.i4 hne]
    case i5 =>
      intro _ i hi hi2
      rw [hoth i hi2 (by omega), h.i5 hne i (by omega) hi2]
  · cases ht.symm.trans hf

/-- Settles O45, from the cases of one step: it keeps the registers, starts a frame, stores a byte, or ends in IDLE. -/
theorem everyStepKeepsTheInvariants : Obligations.EveryStepKeepsTheInvariants := by
  intro s t h hstep
  cases step_cases hstep with
  | reset => exact .of_idle rfl
  | noByte => exact h.of_regs_eq rfl rfl
  | discard => exact h.of_regs_eq rfl rfl
  | opcode b e _ _ ht => exact acceptOpcode_inv (s := advance s) ht
  | payloadByte b _ _ hst ht => exact storePayloadByte_inv (h.of_regs_eq (t := advance s) rfl rfl) hst ht
  | checksumByte => exact .of_idle rfl
  | unregistered => exact .of_idle rfl

/-- Settles O44: the parser is in IDLE after reset. -/
theorem resetStateMeetsTheInvariants : Obligations.ResetStateMeetsTheInvariants := fun c => .of_idle (resetWith_st c)

/-! ### Runs, cycle by cycle -/

theorem run_succ_of_next {s t : State} (h : step s = .next t) (k : Nat) : run (k + 1) s = run k t := by
  simp only [run, h]

theorem eventTrace_succ_of_next {s t : State} (h : step s = .next t) (k : Nat) :
    eventTrace (k + 1) s = t.out.events ++ eventTrace k t := by
  simp only [eventTrace, h]

/-- What is shown from a cycle on is decided by that cycle's step. -/
theorem eventTrace_succ_congr {s u : State} (h : step s = step u) (k : Nat) :
    eventTrace (k + 1) s = eventTrace (k + 1) u := by
  simp only [eventTrace, h]

/-- R90. -/
theorem step_of_noByte {s : State} (hr : (currentPorts s).rst = false) (hrx : rxByte (currentPorts s) = none) :
    step s = .next (keepRegisters (advance s)) := by
  rw [step_of_noReset hr, hrx]

/-! ### The left-over registers in IDLE (R28) -/

/-- Reset overwrites every register (R170). -/
theorem resetRegisters_congr {s u : State} (hc : s.cfg = u.cfg) (hi : s.inputs = u.inputs) :
    resetRegisters s = resetRegisters u := by
  simp only [resetRegisters, hc, hi]

/-- A registered opcode overwrites every register (R92, R93). -/
theorem acceptOpcode_congr {s u : State} (b : Byte) (n : Count) (hc : s.cfg = u.cfg) (hi : s.inputs = u.inputs) :
    acceptOpcode b n s = acceptOpcode b n u := by
  simp only [acceptOpcode, hc, hi]

/-- Two idle blocks with one configuration and the same pending inputs step to one and the same state, or both keep their
registers. -/
theorem step_eq_or_keepRegisters_of_idle {s u : State} (hs : s.st = .idle) (hu : u.st = .idle) (hc : s.cfg = u.cfg)
    (hi : s.inputs = u.inputs) :
    step s = step u ∨
      (step s = .next (keepRegisters (advance s)) ∧ step u = .next (keepRegisters (advance u))) := by
  have hp : currentPorts s = currentPorts u := congrArg (List.headD · PortSample.quiet) hi
  have hi' : (advance s).inputs = (advance u).inputs := congrArg List.tail hi
  cases hr : (currentPorts u).rst with
  | true =>
    left
    rw [step_of_reset (by rw [hp, hr]), step_of_reset hr, resetRegisters_congr (s := advance s) (u := advance u) hc hi']
  | false =>
    cases hrx : rxByte (currentPorts u) with
    | none => exact .inr ⟨step_of_noByte (by rw [hp, hr]) (by rw [hp, hrx]), step_of_noByte hr hrx⟩
    | some b =>
      rw [step_of_noReset (s := s) (by rw [hp, hr]), step_of_noReset hr, hp, hrx]
      cases ht : table u.cfg b with
      | none => right; simp only [fetchByte, hs, hu, hc, ht, exec_unregisteredByte, and_self]
      | some e =>
        left
        simp only [fetchByte, hs, hu, hc, ht, acceptOpcode_congr (s := advance s) (u := advance u) b e.len hc hi']

/-- Settles O50, by induction on the cycles: two idle blocks stay idle and silent together until one step makes them equal. -/
theorem idleRegistersAreNeverRead : Obligations.IdleRegistersAreNeverRead := by
  intro k
  induction k with
  | zero => intros; rfl
  | succ k ih =>
    intro s u hs hu hc hi
    rcases step_eq_or_keepRegisters_of_idle hs hu hc hi with heq | ⟨hks, hku⟩
    · exact eventTrace_succ_congr heq k
    · rw [eventTrace_succ_of_next hks, eventTrace_succ_of_next hku]
      exact congrArg _ (ih _ _ hs hu hc (congrArg List.tail hi))

/-! ### The output ports (R22) -/

/-- The packing of D22, in whole numbers. -/
theorem payload_port_toNat (p0 p1 p2 : Byte) :
    (p0 ++ p1 ++ p2 : BitVec 24).toNat = p0.toNat * 65536 + p1.toNat * 256 + p2.toNat := by
  have hhigh : (p0 ++ p1).toNat = p0.toNat * 256 + p1.toNat := joinBytes_toNat p0 p1
  rw [BitVec.toNat_append, ← Nat.shiftLeft_add_eq_or_of_lt p2.isLt, Nat.shiftLeft_eq, hhigh]
  omega

/-- Collaborator events leave the payload port as it is. -/
theorem foldl_drive_dispPayload {evs : List Event} (h : ∀ e ∈ evs, e.isDispatch = false) (o : Outputs) :
    (evs.foldl Outputs.drive o).dispPayload = o.dispPayload := by
  induction evs generalizing o with
  | nil => rfl
  | cons e evs ih =>
    obtain ⟨he, hevs⟩ := List.forall_mem_cons.mp h
    rw [List.foldl_cons, ih hevs]
    cases e with
    | dispatch => cases he
    | motorWrite | servoWrite | lightsSet | masterSet | sampleTrigger => rfl

/-- The ports show the events of a frame, in order. -/
theorem events_of_frame (c : Config) (i : Instr) :
    (Outputs.ofEvents (frameDispatch i :: handlerEvents c i)).events = frameDispatch i :: handlerEvents c i := by
  obtain ⟨hlen, hnot⟩ := handlerEvents_shape c i
  exact events_of_dispatch_and_one _ _ _ _ _ _ hlen hnot

theorem lanesQuiet_of_frame (c : Config) (i : Instr) :
    (Outputs.ofEvents (frameDispatch i :: handlerEvents c i)).LanesQuiet := by
  obtain ⟨hlen, hnot⟩ := handlerEvents_shape c i
  exact lanesQuiet_of_dispatch_and_one _ _ _ _ _ _ hlen hnot

/-- Settles O28: the handler's event, if any, is on a port of its own beside the dispatch. -/
theorem portsShowExactlyTheFrameEvents : Obligations.PortsShowExactlyTheFrameEvents := by
  refine fun c i => ⟨events_of_frame c i, ?_⟩
  obtain ⟨-, hnot⟩ := handlerEvents_shape c i
  rw [Outputs.ofEvents, List.foldl_cons, foldl_drive_dispPayload hnot]
  exact payload_port_toNat _ _ _

/-- A payload byte shows no event (R94, R95). -/
theorem storePayloadByte_out {s t : State} {b : Byte} (h : storePayloadByte b s = .next t) : t.out = Outputs.zero := by
  rcases storePayloadByte_cases b s with ⟨-, t', ht', -, -, -, -, -, -, -, -, -, hout, -⟩ | ⟨-, hf⟩
  · cases h.symm.trans ht'
    exact hout
  · cases h.symm.trans hf

/-- What a step leaves on the output ports: nothing, or the events of one frame (R51, R131). -/
theorem step_out_cases {s t : State} (h : step s = .next t) :
    t.out = Outputs.zero ∨ ∃ i, t.out = Outputs.ofEvents (frameDispatch i :: handlerEvents s.cfg i) := by
  cases step_cases h with
  | reset => exact .inl rfl
  | noByte => exact .inl rfl
  | discard => exact .inl rfl
  | opcode => exact .inl rfl
  | unregistered => exact .inl rfl
  | payloadByte _ _ _ _ ht => exact .inl (storePayloadByte_out ht)
  | checksumByte b cls i _ _ ht hi =>
    obtain ⟨hop, hp, -⟩ := instrOf_eq_some hi (by rwa [first_len])
    rw [completeFrame_out, ← hop, ← hp, dispatchEvent_eq_frameDispatch]
    split
    · exact .inr ⟨i, rfl⟩
    · exact .inl rfl

/-- Of a frame's events, only the first is a dispatch (R131). -/
theorem filter_isDispatch_frame (c : Config) (i : Instr) :
    (frameDispatch i :: handlerEvents c i).filter Event.isDispatch = [frameDispatch i] ∧
    (frameDispatch i :: handlerEvents c i).filter (fun e => !e.isDispatch) = handlerEvents c i := by
  obtain ⟨-, hnot⟩ := handlerEvents_shape c i
  constructor
  · rw [List.filter_cons_of_pos rfl, List.filter_eq_nil_iff.mpr fun e he => by simp [hnot e he]]
  · rw [List.filter_cons_of_neg (by simp [frameDispatch, Event.isDispatch]),
      List.filter_eq_self.mpr fun e he => by simp [hnot e he]]

/-- Settles O48, from the two things a step can leave on the output ports. -/
theorem outputPortsAreQuietWithoutEvents : Obligations.OutputPortsAreQuietWithoutEvents := by
  intro s t h
  rcases step_out_cases h with hout | ⟨i, hout⟩ <;> rw [hout]
  · exact ⟨zero_lanesQuiet, Nat.zero_le _, Nat.le_refl _⟩
  · obtain ⟨hdisp, hcoll⟩ := filter_isDispatch_frame s.cfg i
    obtain ⟨hlen, -⟩ := handlerEvents_shape s.cfg i
    rw [events_of_frame, hdisp, hcoll]
    exact ⟨lanesQuiet_of_frame s.cfg i, Nat.le_refl _, hlen⟩

/-! ### The input handshake (R21) and waiting (R30) -/

theorem rxReady_iff (p : PortSample) : rxReady p = true ↔ p.rst = false := by
  simp [rxReady]

theorem rxByte_eq_some_iff {p : PortSample} {b : Byte} :
    rxByte p = some b ↔ p.rxValid = true ∧ rxReady p = true ∧ b = p.rxData := by
  simp [rxByte, and_assoc, eq_comm (a := b)]

theorem rxByte_of_valid {p : PortSample} (hv : p.rxValid = true) (hr : p.rst = false) : rxByte p = some p.rxData :=
  rxByte_eq_some_iff.mpr ⟨hv, (rxReady_iff p).mpr hr, rfl⟩

theorem rxByte_of_reset {p : PortSample} (hr : p.rst = true) : rxByte p = none := by
  simp [rxByte, rxReady, hr]

/-- Settles O29, from the two halves of the handshake. -/
theorem byteIsConsumedWhenValidAndReady : Obligations.ByteIsConsumedWhenValidAndReady :=
  fun p _ => ⟨rxByte_eq_some_iff, rxReady_iff p⟩

/-- Settles O30, by induction on the cycles to come: a reset cycle passes the byte on to the next one. -/
theorem heldByteIsConsumedNext : Obligations.HeldByteIsConsumedNext := by
  intro p ports hv hh
  induction ports generalizing p with
  | nil =>
    have hr : p.rst = false := by simpa [holdsBytes, hv] using hh
    exact ⟨[], List.filterMap_cons_some (rxByte_of_valid hv hr)⟩
  | cons q rest ih =>
    cases hr : p.rst with
    | false => exact ⟨consumed (q :: rest), List.filterMap_cons_some (rxByte_of_valid hv hr)⟩
    | true =>
      obtain ⟨⟨hqv, hqd⟩, hq⟩ : (q.rxValid = true ∧ q.rxData = p.rxData) ∧ holdsBytes (q :: rest) = true := by
        simpa [holdsBytes, hv, hr] using hh
      obtain ⟨bs, hbs⟩ := ih q hqv hq
      exact ⟨bs, by rw [consumed, List.filterMap_cons_none (rxByte_of_reset hr), ← hqd]; exact hbs⟩

/-- Settles O32, by induction on the schedule: each cycle is a NOBYTE step. -/
theorem partialFrameWaitsHoweverLong : Obligations.PartialFrameWaitsHoweverLong := by
  intro s ports rest hin hnr hno
  induction ports generalizing s with
  | nil => exact ⟨s, rfl, rfl, rfl, hin, rfl⟩
  | cons p ports ih =>
    obtain ⟨hp, hadv⟩ := currentPorts_of_inputs hin
    obtain ⟨hr, hnr⟩ : p.rst = false ∧ noReset ports = true := by simpa [noReset] using hnr
    obtain ⟨hb, hno⟩ : rxByte p = none ∧ consumed ports = [] := by simpa [consumed] using hno
    have hstep : step s = .next (keepRegisters (advance s)) := step_of_noByte (by rw [hp, hr]) (by rw [hp, hb])
    obtain ⟨t, hrun, hregs, hcfg, hinp, htrace⟩ := ih (keepRegisters (advance s)) hadv hnr hno
    refine ⟨t, ?_, hregs, hcfg, hinp, ?_⟩
    · rw [List.length_cons, run_succ_of_next hstep, hrun]
    · rw [List.length_cons, eventTrace_succ_of_next hstep, htrace, keepRegisters_out, zero_events, List.nil_append]

/-! ### The codes of the parser state (R27) -/

theorem ofCode_code (p : ParserState) : ParserState.ofCode p.code = p := by
  cases p <;> rfl

/-- Settles O40: each code evaluates to its value, and reading back is by cases on the parser state. -/
theorem parserStateCodes : Obligations.ParserStateCodes := ⟨rfl, rfl, rfl, ofCode_code, rfl⟩

end Sys2Proof.Machine
end

section
/-! PROOFS. The family 20_memory.md: events leave the block only with a matching checksum byte (R51), and in the order in which
the frames arrive on the link (R51, R99). -/

namespace Sys2Proof

/-! ### Frames back to back on the link decode one by one -/

/-- A frame the configuration gives is the instruction of its own bytes (R62, R69). -/
theorem instrOf_of_wf {c : Config} {i : Instr} {chk : Byte} (hwf : i.wf c = true) (hchk : i.chk? = some chk) :
    ∃ cls, Machine.table c i.opcode = some ⟨cls, i.payload.len⟩ ∧ instrOf cls i.opcode i.payload chk = some i := by
  cases i with
  | motor | servo =>
    cases hchk
    exact ⟨_, eq_of_beq hwf, by simp [instrOf, Instr.opcode, Instr.payload, actuatorPayload, actuatorInstr]⟩
  | lightsOn | lightsOff | masterOn | masterOff | generic =>
    cases hchk
    exact ⟨_, eq_of_beq hwf, rfl⟩
  | sample op arg chk =>
    cases hchk
    cases arg <;> exact ⟨.sample, eq_of_beq hwf, rfl⟩
  | unregisteredByte => cases hchk

/-- The bytes of an instruction decode to it, whatever follows on the link (R60, R67). -/
theorem decode_encode_append {c : Config} {i : Instr} (hwf : i.wf c = true) (rest : List Byte) :
    decode c (encode i ++ rest) = .ok (i, rest) := by
  cases hchk : i.chk? with
  | some chk =>
    obtain ⟨cls, ht, hi⟩ := instrOf_of_wf hwf hchk
    simp [encode, decode, hchk, ht, takePayload_bytes, hi]
  | none =>
    cases i <;> cases hchk
    next b =>
      have ht : Machine.table c b = none := eq_of_beq hwf
      simp [encode, decode, Instr.opcode, Instr.payload, Instr.chk?, Payload.bytes, ht]

/-- Bytes that begin with no whole instruction are those of no instructions. -/
theorem eq_nil_of_flatMap_encode {c : Config} {is : List Instr} (hwf : ∀ i ∈ is, i.wf c = true)
    (hdec : ∀ i rest, decode c (is.flatMap encode) ≠ .ok (i, rest)) : is = [] := by
  cases is with
  | nil => rfl
  | cons i is => exact absurd (decode_encode_append (hwf i (by simp)) (is.flatMap encode)) (hdec _ _)

/-- Bytes that begin with an instruction are those of that instruction and the ones after it (R67). -/
theorem eq_cons_of_flatMap_encode {c : Config} {i : Instr} {is : List Instr} {rest : List Byte} (hi : i.wf c = true)
    (hwf : ∀ j ∈ is, j.wf c = true) (h : encode i ++ rest = is.flatMap encode) :
    ∃ is', is = i :: is' ∧ rest = is'.flatMap encode := by
  cases is with
  | nil => simp [encode] at h
  | cons j is =>
    have hj := decode_encode_append (hwf j (by simp)) (is.flatMap encode)
    rw [← List.flatMap_cons, ← h, decode_encode_append hi] at hj
    cases hj
    exact ⟨is, rfl, rfl⟩

end Sys2Proof

namespace Sys2Proof.Machine

/-! ### The frame in progress -/

/-- The bytes of the frame in progress, as the registers hold them: the opcode and the payload bytes collected so far (R20,
R28); none in IDLE. -/
def State.received (s : State) : List Byte :=
  if s.st = .idle then [] else s.opc :: (s.buf.first s.cnt).bytes

theorem received_of_idle {s : State} (h : s.st = .idle) : s.received = [] := if_pos h

theorem received_of_not_idle {s : State} (h : s.st ≠ .idle) : s.received = s.opc :: (s.buf.first s.cnt).bytes := if_neg h

theorem first_bytes (m : PayloadBuf) (n : Count) : (m.first n).bytes = (List.range n.toNat).map m.get := by
  rcases count_cases n with rfl | rfl | rfl | rfl <;> rfl

/-- I4 of R28: the accumulator is the exclusive OR of the bytes received. -/
theorem State.Inv.acc_eq_xorAll {s : State} (h : s.Inv) (hst : s.st ≠ .idle) :
    s.acc = xorAll (s.opc :: (s.buf.first s.cnt).bytes) := by
  rw [h.i4 hst, first_bytes, xorAll, List.foldl_cons, List.foldl_map, BitVec.zero_xor]

/-- The frame in progress still lacks a byte. -/
theorem decode_received_ne_ok {s : State} (h : s.Inv) (i : Instr) (rest : List Byte) :
    decode s.cfg s.received ≠ .ok (i, rest) := by
  intro hok
  by_cases hst : s.st = .idle
  · rw [received_of_idle hst] at hok
    cases hok
  · rw [received_of_not_idle hst] at hok
    obtain ⟨cls, ht⟩ := h.i1 hst
    have hcnt : s.cnt.toNat ≤ s.len.toNat := by
      cases hs : s.st with
      | idle => exact absurd hs hst
      | payload => exact (h.i2 hs).2.le
      | check => rw [h.i3 hs]
    rcases decode_cons_cases s.cfg s.opc (s.buf.first s.cnt).bytes with
      ⟨hnone, -⟩ | ⟨e, -, -, herr⟩ | ⟨e, p, chk, rest', -, he, hp, hbytes, -⟩
    · cases ht.symm.trans hnone
    · cases hok.symm.trans herr
    · cases ht.symm.trans he
      have hlen := congrArg List.length hbytes
      simp only [List.length_append, List.length_cons, Payload.bytes_length, first_len, hp] at hlen
      omega

/-! ### One cycle of a run without reset -/

/-- From a state of R28 every step answers a next state. -/
theorem State.Inv.step_next {s : State} (h : s.Inv) : ∃ t, step s = .next t := by
  rcases step_next_or_stop s with hnext | ⟨hst, hcnt⟩ | ⟨hst, hno⟩
  · exact hnext
  · obtain ⟨-, hlt⟩ := h.i2 hst
    rw [hcnt] at hlt
    exact absurd s.len.isLt (Nat.not_lt.mpr hlt)
  · obtain ⟨cls, ht⟩ := h.i1 (by simp [hst])
    exact absurd ht (hno cls)

/-- A step keeps the configuration and takes one cycle's port values. -/
theorem step_cfg_inputs {s t : State} (h : step s = .next t) : t.cfg = s.cfg ∧ t.inputs = s.inputs.tail := by
  cases step_cases h with
  | reset | noByte | discard | opcode | checksumByte | unregistered => exact ⟨rfl, rfl⟩
  | payloadByte b _ _ _ ht =>
    rcases storePayloadByte_cases b (advance s) with ⟨-, t', ht', -, -, -, -, -, -, -, hcfg, hin, -⟩ | ⟨-, hf⟩
    · cases ht.symm.trans ht'
      exact ⟨hcfg, hin⟩
    · cases ht.symm.trans hf

/-- A payload byte joins the bytes received (R94, R95). -/
theorem storePayloadByte_received {s t : State} {b : Byte} (hst : s.st = .payload)
    (ht : storePayloadByte b s = .next t) : t.received = s.received ++ [b] := by
  rcases storePayloadByte_cases b s with
    ⟨hc, t', ht', hopc, -, -, hcnt, -, hget, hoth, -, -, -, hcheck, hpayload⟩ | ⟨-, hf⟩
  · cases ht.symm.trans ht'
    have htst : t.st ≠ .idle := by
      by_cases heq : s.cnt.toNat + 1 = s.len.toNat
      · simp [hcheck heq]
      · simp [hpayload heq]
    have hcollected : (List.range s.cnt.toNat).map t.buf.get = (List.range s.cnt.toNat).map s.buf.get := by
      refine List.map_congr_left fun i hi => ?_
      have := List.mem_range.mp hi
      exact hoth i (by omega) (by omega)
    rw [received_of_not_idle htst, received_of_not_idle (by simp [hst]), first_bytes, first_bytes, hcnt, List.range_succ,
      List.map_append, hcollected, List.map_singleton, hget, hopc, List.cons_append]
  · cases ht.symm.trans hf

/-- R96, R100: the checksum byte shows the events of the frame it completes. -/
theorem completeFrame_events {s : State} {i : Instr} {b : Byte} (hchk : i.chk? = some b)
    (hacc : s.acc = xorAll (i.opcode :: i.payload.bytes)) :
    (completeFrame i.opcode i.payload b (handlerEvents s.cfg i) s).out.events = frameEvents s.cfg i := by
  have hvalid : i.valid ↔ checksumOK s.acc b = true := by
    rw [Instr.valid, hchk, Option.some_inj, ← hacc, checksumOK, beq_iff_eq, eq_comm]
  rw [completeFrame_out, dispatchEvent_eq_frameDispatch]
  by_cases hok : checksumOK s.acc b = true
  · rw [if_pos hok, frameEvents, if_pos (hvalid.mpr hok), events_of_frame]
  · rw [if_neg hok, frameEvents, if_neg (hvalid.not.mpr hok), ofEvents_nil, zero_events]

/-- What a consumed byte does from a state of R28: it joins the frame in progress in silence, or it completes an instruction,
whose events are shown while the parser is in IDLE again (R91 to R96). -/
theorem step_byte_cases {s t : State} {b : Byte} (hinv : s.Inv) (hrx : rxByte (currentPorts s) = some b)
    (h : step s = .next t) :
    (t.received = s.received ++ [b] ∧ t.out.events = []) ∨
    ∃ i, i.wf s.cfg = true ∧ encode i = s.received ++ [b] ∧ t.st = .idle ∧ t.out.events = frameEvents s.cfg i := by
  cases step_cases h with
  | reset hr => simp [rst_of_rxByte hrx] at hr
  | noByte _ hno => cases hrx.symm.trans hno
  | discard b' hrx' hst ht =>
    cases hrx.symm.trans hrx'
    exact .inr ⟨.unregisteredByte b, by simpa [Instr.wf] using ht, by rw [received_of_idle hst]; rfl, hst, rfl⟩
  | opcode b' e hrx' hst =>
    cases hrx.symm.trans hrx'
    have hne : (acceptOpcode b e.len (advance s)).st ≠ .idle := by
      rw [acceptOpcode_st]
      split <;> simp
    exact .inl ⟨by rw [received_of_idle hst, received_of_not_idle hne]; rfl, rfl⟩
  | payloadByte b' _ hrx' hst ht =>
    cases hrx.symm.trans hrx'
    exact .inl ⟨storePayloadByte_received (s := advance s) hst ht, by rw [storePayloadByte_out ht, zero_events]⟩
  | checksumByte b' cls i hrx' hst ht hi =>
    cases hrx.symm.trans hrx'
    have hne : s.st ≠ .idle := by simp [hst]
    have hacc := hinv.acc_eq_xorAll hne
    obtain ⟨hop, hp, hchk, hwf⟩ := instrOf_eq_some hi (by rwa [first_len])
    rw [hinv.i3 hst, ← hop, ← hp] at hacc
    refine .inr ⟨i, hwf, ?_, rfl, ?_⟩
    · rw [received_of_not_idle hne, hinv.i3 hst, encode, hop, hp, hchk]
      rfl
    · rw [← hop, ← hp]
      exact completeFrame_events (s := advance s) hchk hacc
  | unregistered b' _ hst hno =>
    obtain ⟨cls, ht⟩ := hinv.i1 (by simp [hst])
    exact absurd ht (hno cls)

/-! ### Events in arrival order (R51, R99) -/

/-- From every state of R28, not only from IDLE: where the bytes received and the bytes to come are those of a list of
instructions, the events shown are those of the list in order. -/
theorem eventTrace_of_received_append_consumed {s : State} {is : List Instr} {ports rest : List PortSample} (hinv : s.Inv)
    (hwf : ∀ i ∈ is, i.wf s.cfg = true) (hin : s.inputs = ports ++ rest) (hnr : noReset ports = true)
    (hbytes : s.received ++ consumed ports = is.flatMap encode) :
    eventTrace ports.length s = is.flatMap (frameEvents s.cfg) := by
  induction ports generalizing s is with
  | nil =>
    have hrec : s.received = is.flatMap encode := by simpa [consumed] using hbytes
    have his : is = [] := eq_nil_of_flatMap_encode hwf (hrec ▸ decode_received_ne_ok hinv)
    rw [his]
    rfl
  | cons p ports ih =>
    obtain ⟨hp, -⟩ := currentPorts_of_inputs hin
    obtain ⟨hr, hnr⟩ : p.rst = false ∧ noReset ports = true := by simpa [noReset] using hnr
    obtain ⟨t, hstep⟩ := hinv.step_next
    have htinv := everyStepKeepsTheInvariants s t hinv hstep
    obtain ⟨hcfg, htin⟩ := step_cfg_inputs hstep
    rw [hin, List.cons_append, List.tail_cons] at htin
    rw [List.length_cons, eventTrace_succ_of_next hstep]
    cases hrx : rxByte p with
    | none =>
      cases hstep.symm.trans (step_of_noByte (by rw [hp, hr]) (by rw [hp, hrx]))
      rw [consumed, List.filterMap_cons_none hrx] at hbytes
      exact ih htinv hwf htin hnr hbytes
    | some b =>
      rw [consumed, List.filterMap_cons_some hrx, List.append_cons] at hbytes
      rcases step_byte_cases hinv (by rw [hp, hrx]) hstep with ⟨hrec, hout⟩ | ⟨i, hi, henc, hidle, hout⟩
      · rw [← hrec] at hbytes
        rw [hout, List.nil_append, ← hcfg]
        exact ih htinv (hcfg ▸ hwf) htin hnr hbytes
      · rw [← henc] at hbytes
        obtain ⟨is', rfl, hrest⟩ := eq_cons_of_flatMap_encode hi hwf hbytes
        rw [hout, List.flatMap_cons, ← hcfg]
        refine congrArg _ (ih htinv (fun j hj => ?_) htin hnr ?_)
        · rw [hcfg]
          exact hwf j (List.mem_cons_of_mem _ hj)
        · rw [received_of_idle hidle]
          exact hrest

/-- Settles O53, by induction on the schedule: the bytes received so far and the bytes to come are those of the frames not yet
completed. -/
theorem framesDispatchInArrivalOrder : Obligations.FramesDispatchInArrivalOrder := by
  intro s is ports rest hst hwf hin hnr hbytes
  exact eventTrace_of_received_append_consumed (.of_idle hst) hwf hin hnr (by rw [received_of_idle hst]; exact hbytes)

/-- Settles O49, from the cases of one step: only the checksum byte of a frame leaves events, and only if it matches. -/
theorem eventsOnlyOnAMatchingChecksumByte : Obligations.EventsOnlyOnAMatchingChecksumByte := by
  intro s t h hev
  cases step_cases h with
  | reset | noByte | discard | opcode | unregistered => exact absurd rfl hev
  | payloadByte _ _ _ _ ht =>
    rw [storePayloadByte_out ht] at hev
    exact absurd zero_events hev
  | checksumByte b cls i hrx hst =>
    by_cases hok : checksumOK (advance s).acc b = true
    · have hacc : s.acc = b := by simpa [checksumOK] using hok
      exact ⟨hst, by rw [hrx, hacc], rfl⟩
    · rw [completeFrame_out, if_neg hok] at hev
      exact absurd zero_events hev

end Sys2Proof.Machine
end

section
/-! PROOFS. The family 30_encoding.md: decode and encode agree (R60, R62), a frame's length (R61, R67), the byte order of an
actuator's value (R63, D11), and the frames of a program's lines (R70, D24). -/

namespace Sys2Proof.Machine

/-! ### Decode and encode -/

/-- Settles O7: what follows the frame on the link does not matter, and the frame's own bytes decode to it. -/
theorem decodeOfEncodeIsTheInstruction : Obligations.DecodeOfEncodeIsTheInstruction :=
  fun _ _ rest hwf => decode_encode_append hwf rest

/-- A frame's bytes are its opcode, its payload and its checksum byte (R60). -/
theorem encode_of_frame {i : Instr} {chk : Byte} (h : i.chk? = some chk) :
    encode i = i.opcode :: (i.payload.bytes ++ [chk]) := by
  rw [encode, h, Option.toList_some]

/-- R61: a frame has 2 + N bytes, N the length of its payload. -/
theorem encode_length_of_frame {i : Instr} {chk : Byte} (h : i.chk? = some chk) :
    (encode i).length = 2 + i.payload.len.toNat := by
  rw [encode_of_frame h, List.length_cons, List.length_append, List.length_singleton, Payload.bytes_length]
  omega

/-- Settles O8, from the three answers of `decode`: an unregistered byte, an incomplete frame, a frame. -/
theorem encodeOfDecodeIsTheBytes : Obligations.EncodeOfDecodeIsTheBytes := by
  intro c bytes i rest hdec
  cases bytes with
  | nil => cases hdec
  | cons b bs =>
    rcases decode_cons_cases c b bs with
      ⟨ht, hok⟩ | ⟨e, -, -, herr⟩ | ⟨e, p, chk, rest', i', -, -, hbs, hok, hop, hp, hchk, hwf⟩
    · cases hdec.symm.trans hok
      exact ⟨beq_iff_eq.mpr ht, rfl⟩
    · cases hdec.symm.trans herr
    · cases hdec.symm.trans hok
      refine ⟨hwf, ?_⟩
      rw [encode_of_frame hchk, hop, hp, hbs, List.cons_append, List.append_assoc, List.singleton_append]

/-- Settles O9: the table's answer for the first byte and the number of bytes after it select one of the three answers of
`decode`. -/
theorem firstByteDecidesFrameLength : Obligations.FirstByteDecidesFrameLength := by
  intro c b rest
  rcases decode_cons_cases c b rest with
    ⟨ht, hok⟩ | ⟨e, ht, hshort, herr⟩ | ⟨e, p, chk, rest', i, ht, hlen, hrest, hok, -, hp, hchk, -⟩
  · exact ⟨fun _ => hok, fun e he => by cases ht.symm.trans he⟩
  · refine ⟨fun hnone => absurd (ht.symm.trans hnone) (Option.some_ne_none e), fun e' he => ?_⟩
    cases ht.symm.trans he
    exact ⟨fun _ => herr, fun hlong => absurd hshort (Nat.not_lt.mpr hlong)⟩
  · refine ⟨fun hnone => absurd (ht.symm.trans hnone) (Option.some_ne_none e), fun e' he => ?_⟩
    cases ht.symm.trans he
    have htaken : (p.bytes ++ [chk]).length = e.len.toNat + 1 := by simp [hlen]
    have hsplit : rest = (p.bytes ++ [chk]) ++ rest' := by rw [hrest, List.append_cons]
    constructor
    · intro hshort
      rw [hsplit, List.length_append, htaken] at hshort
      omega
    · intro _
      refine ⟨i, ?_, by rw [encode_length_of_frame hchk, hp, hlen]⟩
      rw [hok, hsplit, List.drop_left' htaken]

/-! ### The value of a MOTOR or SERVO frame (R63, D11) -/

/-- The payload bytes of an actuator frame are the index byte and the two bytes of its value, high byte first. -/
theorem actuatorPayload_joinBytes (idx hi lo : Byte) : actuatorPayload idx (joinBytes hi lo) = .f3 idx hi lo := by
  rw [actuatorPayload, highByte_joinBytes, lowByte_joinBytes]

/-- The bytes of a frame that the configuration gives, with nothing after them, decode to it. -/
theorem decode_frame_bytes {c : Config} {i : Instr} {op chk : Byte} {p : Payload} (hwf : i.wf c = true) (hop : i.opcode = op)
    (hp : i.payload = p) (hchk : i.chk? = some chk) : decode c (op :: (p.bytes ++ [chk])) = .ok (i, []) := by
  rw [← hop, ← hp, ← encode_of_frame hchk, ← List.append_nil (encode i)]
  exact decode_encode_append hwf []

/-- Settles O10: the five bytes are those of the actuator frame whose value joins the third byte and the fourth. -/
theorem actuatorValueIsBigEndian : Obligations.ActuatorValueIsBigEndian := by
  intro c op idx hi lo chk
  have hpay := actuatorPayload_joinBytes idx hi lo
  have hval := joinBytes_toNat hi lo
  constructor
  · intro ht
    have hwf : (Instr.motor op idx (joinBytes hi lo) chk).wf c = true := beq_iff_eq.mpr ht
    exact ⟨joinBytes hi lo, decode_frame_bytes hwf rfl hpay rfl, hval⟩
  · intro ht
    have hwf : (Instr.servo op idx (joinBytes hi lo) chk).wf c = true := beq_iff_eq.mpr ht
    exact ⟨joinBytes hi lo, decode_frame_bytes hwf rfl hpay rfl, hval⟩

/-! ### The frames of a program's lines (R70, D24) -/

/-- R110 as a list: the checksum is the exclusive OR of the opcode and the payload's bytes. -/
theorem checksum_eq_xorAll (op : Byte) (p : Payload) : checksum op p = xorAll (op :: p.bytes) := by
  rw [checksum_eq_foldl, xorAll, List.foldl_cons, BitVec.zero_xor]

/-- A `FrameNote` carries the checksum byte it is written with. -/
@[simp] theorem FrameNote.instr_chk? (f : FrameNote) (x : Byte) : (f.instr x).chk? = some x := by
  cases f <;> rfl

/-- The checksum byte a `FrameNote` is written with changes neither its opcode nor its payload. -/
theorem FrameNote.instr_opcode_payload (f : FrameNote) (x y : Byte) :
    (f.instr x).opcode = (f.instr y).opcode ∧ (f.instr x).payload = (f.instr y).payload := by
  cases f <;> exact ⟨rfl, rfl⟩

/-- The correct checksum of a `FrameNote` is that of the frame it is written into. -/
theorem FrameNote.correctChk_eq_xorAll (f : FrameNote) (x : Byte) :
    f.correctChk = xorAll ((f.instr x).opcode :: (f.instr x).payload.bytes) := by
  obtain ⟨hop, hp⟩ := f.instr_opcode_payload x 0#8
  rw [hop, hp, ← checksum_eq_xorAll, FrameNote.correctChk]

/-- Settles O11: the checksum is computed from the opcode and the payload, which do not depend on it. -/
theorem notationFramesAreValid : Obligations.NotationFramesAreValid :=
  fun f => ⟨(f.instr_chk? _).trans (congrArg some (f.correctChk_eq_xorAll _)), rfl⟩

end Sys2Proof.Machine
end

section
/-! PROOFS. The family 40_command_table.md: the contracts of the table's two functions (R81), no run changes the table (R82), and
the 6-bit words of its read-only memory (R84, D8). -/

namespace Sys2Proof.Machine

/-! ### Runs change no configuration field (R82, R26) -/

/-- A run of one more cycle answers a state exactly when its first cycle and the rest of the run do. -/
theorem run_succ_eq_next_iff {k : Nat} {s t : State} :
    run (k + 1) s = .next t ↔ ∃ u, step s = .next u ∧ run k u = .next t := by
  cases h : step s <;> simp [run, h]

/-- What every step keeps, every run keeps. -/
theorem run_preserves {P : State → Prop} (hP : ∀ {s t}, step s = .next t → P s → P t) {k : Nat} {s t : State}
    (h : run k s = .next t) (hs : P s) : P t := by
  induction k generalizing s with
  | zero => cases h; exact hs
  | succ k ih =>
    obtain ⟨u, hstep, hrun⟩ := run_succ_eq_next_iff.mp h
    exact ih hrun (hP hstep hs)

/-- R26, R53: the configuration is no state of the block. -/
theorem run_cfg {k : Nat} {s t : State} (h : run k s = .next t) : t.cfg = s.cfg :=
  run_preserves (P := fun u => u.cfg = s.cfg) (fun hstep hu => (step_cfg_inputs hstep).1.trans hu) h rfl

/-- Settles O5: the table of a state is that of its configuration, which every cycle, reset included, keeps. -/
theorem noRunChangesTheTable : Obligations.NoRunChangesTheTable :=
  fun _ _ _ h => ⟨run_cfg h, fun b => congrArg (table · b) (run_cfg h)⟩

/-! ### The contracts of `is_valid` and `payload_length` (R81) -/

theorem contracts_of_table_some {c : Config} {b : Byte} {e : Entry} (h : table c b = some e) :
    isValid c b = true ∧ payloadLength c b = some e.len := by
  simp [isValid, payloadLength, h]

theorem contracts_of_table_none {c : Config} {b : Byte} (h : table c b = none) :
    isValid c b = false ∧ payloadLength c b = none := by
  simp [isValid, payloadLength, h]

/-- Settles O3, by cases on the table's answer; a two-bit length is at most 3. -/
theorem tableContractsHoldForEveryByte : Obligations.TableContractsHoldForEveryByte := by
  intro c b
  cases h : table c b with
  | some e =>
    obtain ⟨hvalid, hlen⟩ := contracts_of_table_some h
    exact .inl ⟨e.cls, e.len, rfl, hvalid, hlen, Nat.le_of_lt_succ e.len.isLt⟩
  | none => exact .inr ⟨rfl, contracts_of_table_none h⟩

/-! ### The words of the table's read-only memory (R84, D8) -/

@[simp] theorem classOfCode_classCode (cls : CmdClass) : classOfCode (classCode cls) = cls := by
  cases cls <;> rfl

/-- Every one of the eight codes is the code of its class. -/
@[simp] theorem classCode_classOfCode (k : BitVec 3) : classCode (classOfCode k) = k := by
  revert k; decide

/-- The `valid` bit of a word is bit 5. -/
theorem valid_eq_one_iff (w : BitVec 6) : w.extractLsb' 5 1 = 1#1 ↔ w.getLsbD 5 = true := by
  simp [BitVec.eq_of_getLsbD_eq_iff]

theorem romEntry_of_valid {w : BitVec 6} (h : w.getLsbD 5 = true) :
    romEntry w = some ⟨classOfCode (w.extractLsb' 2 3), w.extractLsb' 0 2⟩ :=
  if_pos ((valid_eq_one_iff w).mpr h)

theorem romEntry_of_not_valid {w : BitVec 6} (h : w.getLsbD 5 = false) : romEntry w = none :=
  if_neg fun hv => Bool.false_ne_true (h.symm.trans ((valid_eq_one_iff w).mp hv))

/-- Unpacking a word `{1, k, n}` gives its class and its length. -/
theorem romEntry_packed (k : BitVec 3) (n : Count) : romEntry (1#1 ++ k ++ n) = some ⟨classOfCode k, n⟩ := by
  have hvalid : (1#1 ++ k ++ n).extractLsb' 5 1 = 1#1 :=
    (BitVec.extractLsb'_append_eq_of_le (by decide)).trans BitVec.extractLsb'_append_eq_left
  have hcls : (1#1 ++ k ++ n).extractLsb' 2 3 = k :=
    (BitVec.extractLsb'_append_eq_of_le (by decide)).trans BitVec.extractLsb'_append_eq_right
  have hlen : (1#1 ++ k ++ n).extractLsb' 0 2 = n := BitVec.extractLsb'_append_eq_right
  rw [romEntry, if_pos hvalid, hcls, hlen]

/-- A word is its three fields `{valid, cls, len}` packed. -/
theorem packed_fields (w : BitVec 6) : w.extractLsb' 5 1 ++ w.extractLsb' 2 3 ++ w.extractLsb' 0 2 = w := by
  have hhigh : w.extractLsb' 5 1 ++ w.extractLsb' 2 3 = w.extractLsb' 2 4 :=
    BitVec.extractLsb'_append_extractLsb'_eq_extractLsb' rfl
  rw [hhigh]
  exact BitVec.extractLsb'_append_extractLsb' (w := 4) (len := 2) (x := w)

theorem romEntry_romWord (e : Option Entry) : romEntry (romWord e) = e := by
  cases e with
  | none => rfl
  | some e => rw [romWord, romEntry_packed, classOfCode_classCode]

theorem romWord_romEntry {w : BitVec 6} (h : w.getLsbD 5 = true) : romWord (romEntry w) = w := by
  rw [romEntry_of_valid h, romWord, classCode_classOfCode, ← (valid_eq_one_iff w).mpr h, packed_fields]

/-- Settles O4: packing and unpacking undo each other field by field, and the `valid` bit decides whether there is an entry. -/
theorem romWordsCarryTheirEntries : Obligations.RomWordsCarryTheirEntries :=
  ⟨romEntry_romWord, fun _ => romWord_romEntry, fun _ => romEntry_of_not_valid⟩

end Sys2Proof.Machine
end

section
/-! PROOFS. The family 41_frame_parser.md: what each byte does (R90 to R96), the step as one function (R97), a frame from
IDLE (R100), and the way back to IDLE from every state (R102). -/

namespace Sys2Proof.Machine

/-! ### What a consumed byte does (R91 to R96) -/

/-- The byte a cycle presents, consumed (R21). -/
theorem rxByte_of_inputs {s : State} {b : Byte} {rest : List PortSample} (h : s.inputs = PortSample.byte b :: rest) :
    rxByte (currentPorts s) = some b ∧ (advance s).inputs = rest := by
  obtain ⟨hp, hin⟩ := currentPorts_of_inputs h
  exact ⟨by rw [hp, rxByte_byte], hin⟩

/-- R91. -/
theorem step_of_unregistered {s : State} {b : Byte} (hrx : rxByte (currentPorts s) = some b) (hst : s.st = .idle)
    (ht : table s.cfg b = none) : step s = .next (keepRegisters (advance s)) := by
  simp only [step_of_noReset (rst_of_rxByte hrx), hrx, fetchByte, hst, ht, exec_unregisteredByte]

/-- R92, R93. -/
theorem step_of_opcode {s : State} {b : Byte} {e : Entry} (hrx : rxByte (currentPorts s) = some b) (hst : s.st = .idle)
    (ht : table s.cfg b = some e) : step s = .next (acceptOpcode b e.len (advance s)) := by
  simp only [step_of_noReset (rst_of_rxByte hrx), hrx, fetchByte, hst, ht]

/-- R94, R95. -/
theorem step_of_payloadByte {s : State} {b : Byte} (hrx : rxByte (currentPorts s) = some b) (hst : s.st = .payload) :
    step s = storePayloadByte b (advance s) := by
  simp only [step_of_noReset (rst_of_rxByte hrx), hrx, fetchByte, hst]

/-- R96: the checksum byte runs the instruction that it and the registers make. -/
theorem step_of_decode {s : State} {b : Byte} {i : Instr} (hrx : rxByte (currentPorts s) = some b) (hst : s.st = .check)
    (hdec : decode s.cfg (candidateBytes s b) = .ok (i, [])) : step s = exec i (advance s) := by
  simp only [step_of_noReset (rst_of_rxByte hrx), hrx, fetchByte, hst, hdec]

/-- A single byte is a whole instruction only where it is no opcode (R61, R91). -/
theorem decode_singleton_eq_ok {c : Config} {b : Byte} {i : Instr} (h : decode c [b] = .ok (i, [])) :
    table c b = none ∧ i = .unregisteredByte b := by
  rcases decode_cons_cases c b [] with ⟨ht, hok⟩ | ⟨e, -, -, herr⟩ | ⟨e, p, chk, rest, i', -, -, hbs, -⟩
  · cases h.symm.trans hok
    exact ⟨ht, rfl⟩
  · cases h.symm.trans herr
  · exact absurd hbs.symm (by simp)

/-! ### The checksum byte and the dispatcher of R120 (R96) -/

/-- A buffer that is 0 from byte `n` on holds its first `n` bytes and nothing else. -/
theorem bufOf_first_of_zero {m : PayloadBuf} {n : Count} (hzero : ∀ i, n.toNat ≤ i → i ≤ 2 → m.get i = 0#8) :
    bufOf (m.first n) = m := by
  obtain ⟨b0, b1, b2⟩ := m
  have h0 := hzero 0
  have h1 := hzero 1
  have h2 := hzero 2
  rcases count_cases n with rfl | rfl | rfl | rfl <;>
    simp_all [PayloadBuf.get, PayloadBuf.first, bufOf, lane0, lane1, lane2]

/-- In CHECK the buffer is the payload collected (I3, I5 of R28). -/
theorem State.Inv.bufOf_first {s : State} (h : s.Inv) (hst : s.st = .check) : bufOf (s.buf.first s.len) = s.buf :=
  bufOf_first_of_zero (h.i3 hst ▸ h.i5 (by simp [hst]))

/-- The handler that R120 calls for the buffer shows the events of the frame (R123 to R130). -/
theorem ruleHandler_eq_handlerEvents {c : Config} {cls : CmdClass} {op b : Byte} {p : Payload} {i : Instr}
    (ht : table c op = some ⟨cls, p.len⟩) (hi : instrOf cls op p b = some i) :
    ruleHandler cls c (bufOf p) = handlerEvents c i := by
  cases cls with
  | motor | servo =>
    cases p <;> cases hi
    simp only [ruleHandler, handlerEvents, inRange_eq_decide, decide_eq_true_eq, bufOf, lane0, lane1, lane2, joinBytes]
  | lightsOn | lightsOff | masterOn | masterOff =>
    cases p <;> cases hi
    rfl
  | sample =>
    have hlen := sample_len ht rfl
    cases p <;> cases hi
    all_goals
      rw [ruleHandler, ← hlen]
      rfl
  | generic => cases hi; rfl

theorem dispatchEvent_eq_bufOf (op : Byte) (p : Payload) :
    dispatchEvent op p = .dispatch op p.len (bufOf p).b0 (bufOf p).b1 (bufOf p).b2 := rfl

theorem ruleDispatchEvents_of_table {c : Config} {op : Byte} {e : Entry} (ht : table c op = some e) (m : PayloadBuf) :
    ruleDispatchEvents c op m = .dispatch op e.len m.b0 m.b1 m.b2 :: ruleHandler e.cls c m := by
  rw [ruleDispatchEvents, ht]

/-- The events of R120 for the registers are those of the instruction that they and the checksum byte make. -/
theorem State.Inv.ruleDispatchEvents_eq {s : State} {cls : CmdClass} {b : Byte} {i : Instr} (hinv : s.Inv)
    (hst : s.st = .check) (ht : table s.cfg s.opc = some ⟨cls, s.len⟩)
    (hi : instrOf cls s.opc (s.buf.first s.len) b = some i) :
    ruleDispatchEvents s.cfg s.opc s.buf = dispatchEvent s.opc (s.buf.first s.len) :: handlerEvents s.cfg i := by
  rw [← ruleHandler_eq_handlerEvents (by rwa [first_len]) hi, dispatchEvent_eq_bufOf, hinv.bufOf_first hst, first_len,
    ruleDispatchEvents_of_table ht]

/-- R96 with R120, from every state of R28. -/
theorem State.Inv.step_of_checksumByte {s : State} {b : Byte} (hinv : s.Inv) (hst : s.st = .check)
    (hrx : rxByte (currentPorts s) = some b) :
    step s = .next (endFrame (if s.acc = b then ruleDispatchEvents s.cfg s.opc s.buf else []) (advance s)) := by
  obtain ⟨cls, ht⟩ := hinv.i1 (by simp [hst])
  rcases fetchByte_check s b hst with ⟨i, cls', hf, ht', hi, hop, hp, hchk, -⟩ | ⟨hno, -⟩
  · have hstep : step s = exec i (advance s) := by simp only [step_of_noReset (rst_of_rxByte hrx), hrx, hf]
    rw [hstep, exec_frame hchk, completeFrame, hop, hp, hinv.ruleDispatchEvents_eq hst ht' hi]
    simp only [checksumOK, beq_iff_eq, advance_acc, advance_cfg]
  · exact absurd ht (hno cls)

/-- After the checksum byte the output ports show R120's events on a match, and nothing otherwise. -/
theorem State.Inv.checksumByte_events {s : State} (hinv : s.Inv) (hst : s.st = .check) (b : Byte) :
    (Outputs.ofEvents (if s.acc = b then ruleDispatchEvents s.cfg s.opc s.buf else [])).events =
      if s.acc = b then ruleDispatchEvents s.cfg s.opc s.buf else [] := by
  obtain ⟨cls, ht⟩ := hinv.i1 (by simp [hst])
  have ht' : table s.cfg s.opc = some ⟨cls, (s.buf.first s.len).len⟩ := by rwa [first_len]
  obtain ⟨i, hi⟩ := instrOf_isSome b ht'
  obtain ⟨hop, hp, -⟩ := instrOf_eq_some hi ht'
  split
  · rw [hinv.ruleDispatchEvents_eq hst ht hi, ← hop, ← hp, dispatchEvent_eq_frameDispatch, events_of_frame]
  · rfl

/-! ### The step is the function of R97 -/

/-- While payload bytes are missing, `buf[cnt]` exists (R94). -/
theorem cnt_ne_three_of_lt {s : State} (h : s.cnt.toNat < s.len.toNat) : s.cnt ≠ 3#2 := by
  intro hfull
  have hlen := s.len.isLt
  simp only [hfull, BitVec.toNat_ofNat] at h
  omega

/-- `buf[cnt] <- b` of R94, told by its bytes. -/
theorem eq_ruleBufWrite {m m' : PayloadBuf} {k : Nat} {b : Byte} (hk : k < 3) (hget : m'.get k = b)
    (hoth : ∀ i, i ≤ 2 → i ≠ k → m'.get i = m.get i) : m' = ruleBufWrite m k b := by
  have h0 := hoth 0
  have h1 := hoth 1
  have h2 := hoth 2
  obtain ⟨b0, b1, b2⟩ := m'
  interval_cases k <;> simp_all [PayloadBuf.get, ruleBufWrite]

/-- R94 and R95 as R97 writes them. -/
theorem storePayloadByte_eq_ruleStep {s : State} {b : Byte} (c : Config) (hst : s.st = .payload)
    (hlt : s.cnt.toNat < s.len.toNat) : ∃ t, storePayloadByte b s = .next t ∧
      (t.regs, t.out.events) = ruleStep c s.regs (some b) ∧ t.cfg = s.cfg ∧ t.inputs = s.inputs := by
  rcases storePayloadByte_cases b s with
    ⟨hroom, t, ht, hopc, hlen, hcnt', -, hacc, hget, hoth, hcfg, hin, hout, hcheck, hpayload⟩ | ⟨hfull, -⟩
  · refine ⟨t, ht, ?_, hcfg, hin⟩
    have hbuf := eq_ruleBufWrite hroom hget hoth
    simp only [ruleStep, State.regs, hst, hopc, hlen, hcnt', hacc, hbuf, hout, zero_events]
    split
    · next hlast => rw [hcheck hlast]
    · next hmore => rw [hpayload hmore]
  · exact absurd hfull (cnt_ne_three_of_lt hlt)

/-- R91 as R97 writes it. -/
theorem ruleStep_of_unregistered {c : Config} {r : Regs} {b : Byte} (hst : r.st = .idle) (ht : table c b = none) :
    ruleStep c r (some b) = (r, []) := by
  simp only [ruleStep, hst, ht]

/-- R92 and R93 as R97 writes them. -/
theorem acceptOpcode_eq_ruleStep {s : State} {b : Byte} {e : Entry} (hst : s.st = .idle) (ht : table s.cfg b = some e) :
    ((acceptOpcode b e.len s).regs, (acceptOpcode b e.len s).out.events) = ruleStep s.cfg s.regs (some b) := by
  simp only [ruleStep, hst, ht, State.regs, acceptOpcode]
  by_cases hlen : e.len = 0#2 <;> simp [hlen]

/-- R96 as R97 writes it. -/
theorem ruleStep_of_check {c : Config} {r : Regs} {b : Byte} (hst : r.st = .check) :
    ruleStep c r (some b) = ({ r with st := .idle }, if r.acc = b then ruleDispatchEvents c r.opc r.buf else []) := by
  simp only [ruleStep, hst]

/-- Settles O46, by cases on the byte consumed and on the parser state, one rule of R90 to R96 for each. -/
theorem stepIsTheSpecifiedStepFunction : Obligations.StepIsTheSpecifiedStepFunction := by
  intro s hinv hr
  cases hrx : rxByte (currentPorts s) with
  | none => exact ⟨_, step_of_noByte hr hrx, rfl, rfl, rfl⟩
  | some b =>
    cases hst : s.st with
    | idle =>
      cases ht : table s.cfg b with
      | none => exact ⟨_, step_of_unregistered hrx hst ht, (ruleStep_of_unregistered hst ht).symm, rfl, rfl⟩
      | some e => exact ⟨_, step_of_opcode hrx hst ht, acceptOpcode_eq_ruleStep (s := advance s) hst ht, rfl, rfl⟩
    | payload =>
      obtain ⟨-, hlt⟩ := hinv.i2 hst
      rw [step_of_payloadByte hrx hst]
      exact storePayloadByte_eq_ruleStep (s := advance s) s.cfg hst hlt
    | check =>
      refine ⟨_, hinv.step_of_checksumByte hst hrx, ?_, rfl, rfl⟩
      rw [ruleStep_of_check hst]
      exact Prod.ext rfl (hinv.checksumByte_events hst b)

/-! ### The parser's byte steps (R90 to R96) -/

/-- Settles O37: R120's events for the registers stand on the output ports exactly on a match. -/
theorem checksumByteEndsTheFrame : Obligations.ChecksumByteEndsTheFrame := by
  intro s b rest hinv hst hin
  obtain ⟨hrx, hrest⟩ := rxByte_of_inputs hin
  have hevs := hinv.checksumByte_events hst b
  refine ⟨_, hinv.step_of_checksumByte hst hrx, rfl, rfl, rfl, rfl, rfl, rfl, rfl, hrest, fun hacc => ?_,
    fun hacc => hevs.trans (if_neg hacc)⟩
  obtain ⟨cls, ht⟩ := hinv.i1 (by simp [hst])
  exact ⟨_, ht, hevs.trans ((if_pos hacc).trans (ruleDispatchEvents_of_table ht _))⟩

/-- Settles O25: the instruction is DISCARD, which writes only the output ports. -/
theorem unregisteredByteLeavesEverything : Obligations.UnregisteredByteLeavesEverything :=
  fun b s => ⟨_, exec_unregisteredByte b s, rfl, ⟨rfl, rfl, rfl, rfl, rfl, rfl, rfl⟩, rfl⟩

theorem rxByte_of_not_valid {p : PortSample} (hv : p.rxValid = false) : rxByte p = none := by
  simp [rxByte, hv]

/-- Settles O31: the cycle is a NOBYTE step whatever the parser state. -/
theorem noByteChangesNoRegister : Obligations.NoByteChangesNoRegister := by
  intro s p rest hin hr hv
  obtain ⟨hp, hrest⟩ := currentPorts_of_inputs hin
  exact ⟨_, step_of_noByte (by rw [hp, hr]) (by rw [hp, rxByte_of_not_valid hv]), rfl, rfl, rfl, hrest⟩

/-- Settles O33: the byte is taken in a DISCARD step. -/
theorem unregisteredByteInIdleIsDiscarded : Obligations.UnregisteredByteInIdleIsDiscarded := by
  intro s b rest hst ht hin
  obtain ⟨hrx, hrest⟩ := rxByte_of_inputs hin
  exact ⟨_, step_of_unregistered hrx hst ht, rfl, rfl, rfl, hrest⟩

/-- Settles O34: the length of the opcode's entry decides between PAYLOAD and CHECK. -/
theorem opcodeByteStartsAFrame : Obligations.OpcodeByteStartsAFrame := by
  intro s b e rest hst ht hin
  obtain ⟨hrx, hrest⟩ := rxByte_of_inputs hin
  exact ⟨_, step_of_opcode hrx hst ht, rfl, rfl, rfl, rfl, rfl, fun h => if_pos h, fun h => if_neg h, rfl, rfl, hrest⟩

/-- Settles O35: below the payload length there is room in the buffer and the frame goes on in PAYLOAD. -/
theorem payloadByteIsStoredAndAccumulated : Obligations.PayloadByteIsStoredAndAccumulated := by
  intro s b rest hst hmore hin
  obtain ⟨hrx, hrest⟩ := rxByte_of_inputs hin
  rcases storePayloadByte_cases b (advance s) with
    ⟨-, t, ht, hopc, hlen', -, hcnt, hacc, hget, hoth, hcfg, hinp, hout, -, hpayload⟩ | ⟨hfull, -⟩
  · exact ⟨t, (step_of_payloadByte hrx hst).trans ht, hpayload hmore.ne, hopc, hlen', hcnt, hacc, hget, hoth,
      by rw [hout, zero_events], hcfg, hinp.trans hrest⟩
  · exact absurd hfull (cnt_ne_three_of_lt (Nat.lt_of_succ_lt hmore))

/-- Settles O36: the byte that completes the payload enters CHECK in the step that stores it. -/
theorem lastPayloadByteAwaitsTheChecksum : Obligations.LastPayloadByteAwaitsTheChecksum := by
  intro s b rest hst hlast hin
  obtain ⟨hrx, hrest⟩ := rxByte_of_inputs hin
  rcases storePayloadByte_cases b (advance s) with
    ⟨-, t, ht, hopc, hlen', -, hcnt, hacc, hget, hoth, hcfg, hinp, hout, hcheck, -⟩ | ⟨hfull, -⟩
  · exact ⟨t, (step_of_payloadByte hrx hst).trans ht, hcheck hlast, hopc, hlen', BitVec.eq_of_toNat_eq (hcnt.trans hlast),
      hacc, hget, hoth, by rw [hout, zero_events], hcfg, hinp.trans hrest⟩
  · exact absurd hfull (cnt_ne_three_of_lt (Nat.lt_of_succ_le hlast.le))

/-- Settles O38: what is fetched is the instruction decoded, and in IDLE a single byte decodes only where it is no opcode. -/
theorem stepRunsTheDecodedInstruction : Obligations.StepRunsTheDecodedInstruction := by
  refine fun s b i hrx => ⟨step_of_decode hrx, fun hst hdec => ?_, rfl, rfl, rfl, rfl⟩
  obtain ⟨ht, rfl⟩ := decode_singleton_eq_ok hdec
  exact step_of_unregistered hrx hst ht

/-! ### The bytes received and the bytes to come, as instructions -/

/-- No instruction's bytes begin another's (R61, R67). -/
theorem encode_append_inj {c : Config} {i j : Instr} {x y : List Byte} (hi : i.wf c = true) (hj : j.wf c = true)
    (h : encode i ++ x = encode j ++ y) : i = j ∧ x = y := by
  have hdec := decode_encode_append hi x
  rw [h, decode_encode_append hj] at hdec
  cases hdec
  exact ⟨rfl, rfl⟩

/-- Bytes that begin with an instruction, read as instructions and a frame in progress, begin with that instruction. -/
theorem eq_cons_of_encode_append {t : State} {i : Instr} {is : List Instr} {x : List Byte} (hinv : t.Inv)
    (hi : i.wf t.cfg = true) (hwf : ∀ j ∈ is, j.wf t.cfg = true)
    (h : encode i ++ x = is.flatMap encode ++ t.received) :
    ∃ is', is = i :: is' ∧ x = is'.flatMap encode ++ t.received := by
  cases is with
  | nil =>
    have hrec : t.received = encode i ++ x := h.symm
    exact absurd (hrec ▸ decode_encode_append hi x) (decode_received_ne_ok hinv i x)
  | cons j js =>
    rw [List.flatMap_cons, List.append_assoc] at h
    obtain ⟨rfl, hx⟩ := encode_append_inj hi (hwf j (by simp)) h
    exact ⟨js, rfl, hx⟩

theorem flatMap_encode_eq_nil_iff {is : List Instr} : is.flatMap encode = [] ↔ is = [] := by
  cases is <;> simp [encode]

theorem idle_iff_received_eq_nil {s : State} : s.st = .idle ↔ s.received = [] := by
  by_cases h : s.st = .idle
  · simp [h, received_of_idle]
  · simp [h, received_of_not_idle]

/-- A frame in progress has its opcode and at most three payload bytes (R61). -/
theorem received_length_le (s : State) : s.received.length ≤ 4 := by
  by_cases h : s.st = .idle
  · simp [received_of_idle h]
  · have := s.cnt.isLt
    simp only [received_of_not_idle h, List.length_cons, Payload.bytes_length, first_len]
    omega

/-- One cycle without reset moves what it delivers into the frame in progress, or completes an instruction with it, whose
events it shows in IDLE. -/
theorem step_parses {s : State} {p : PortSample} {rest : List PortSample} (hinv : s.Inv) (hin : s.inputs = p :: rest)
    (hr : p.rst = false) : ∃ t, ∃ is : List Instr, step s = .next t ∧ (∀ i ∈ is, i.wf s.cfg = true) ∧
      s.received ++ consumed [p] = is.flatMap encode ++ t.received ∧
      t.out.events = is.flatMap (frameEvents s.cfg) ∧ (is = [] ∨ t.st = .idle) := by
  obtain ⟨hp, -⟩ := currentPorts_of_inputs hin
  cases hrx : rxByte p with
  | none =>
    refine ⟨_, [], step_of_noByte (by rw [hp, hr]) (by rw [hp, hrx]), by simp, ?_, rfl, .inl rfl⟩
    rw [consumed, List.filterMap_cons_none hrx]
    exact List.append_nil _
  | some b =>
    obtain ⟨t, hstep⟩ := hinv.step_next
    rw [consumed, List.filterMap_cons_some hrx, List.filterMap_nil]
    rcases step_byte_cases hinv (by rw [hp, hrx]) hstep with ⟨hrec, hout⟩ | ⟨i, hi, henc, hidle, hout⟩
    · exact ⟨t, [], hstep, by simp, hrec.symm, hout, .inl rfl⟩
    · refine ⟨t, [i], hstep, by simpa using hi, ?_, by simpa using hout, .inr hidle⟩
      rw [received_of_idle hidle, ← henc, List.flatMap_singleton, List.append_nil]

theorem consumed_cons (p : PortSample) (ports : List PortSample) :
    consumed (p :: ports) = consumed [p] ++ consumed ports :=
  List.filterMap_append (l := [p])

theorem noReset_cons {p : PortSample} {ports : List PortSample} :
    noReset (p :: ports) = true ↔ p.rst = false ∧ noReset ports = true := by
  simp [noReset]

theorem noReset_take {ports : List PortSample} (h : noReset ports = true) (k : Nat) : noReset (ports.take k) = true :=
  List.all_eq_true.mpr fun p hp => List.all_eq_true.mp h p (List.mem_of_mem_take hp)

/-- What is pending after a step (R21). -/
theorem inputs_of_step {s t : State} {p : PortSample} {rest : List PortSample} (h : step s = .next t)
    (hin : s.inputs = p :: rest) : t.inputs = rest := by
  rw [(step_cfg_inputs h).2, hin, List.tail_cons]

/-- A run takes one cycle's port values after the other (R21). -/
theorem run_inputs {k : Nat} {s t : State} (h : run k s = .next t) : t.inputs = s.inputs.drop k := by
  induction k generalizing s with
  | zero => cases h; rfl
  | succ k ih =>
    obtain ⟨u, hstep, hrun⟩ := run_succ_eq_next_iff.mp h
    rw [ih hrun, (step_cfg_inputs hstep).2, List.drop_tail]

theorem run_inv {k : Nat} {s t : State} (hinv : s.Inv) (h : run k s = .next t) : t.Inv :=
  run_preserves (fun hstep hs => everyStepKeepsTheInvariants _ _ hs hstep) h hinv

/-- From every state of R28, a run without reset reads the bytes received and the bytes delivered as instructions, whose
events it shows in order, and ends with the frame then in progress. -/
theorem run_parses {s : State} {ports rest : List PortSample} (hinv : s.Inv) (hin : s.inputs = ports ++ rest)
    (hnr : noReset ports = true) : ∃ t, ∃ is : List Instr, run ports.length s = .next t ∧
      (∀ i ∈ is, i.wf s.cfg = true) ∧
      s.received ++ consumed ports = is.flatMap encode ++ t.received ∧
      eventTrace ports.length s = is.flatMap (frameEvents s.cfg) := by
  induction ports generalizing s with
  | nil => exact ⟨s, [], rfl, by simp, List.append_nil _, rfl⟩
  | cons p ports ih =>
    obtain ⟨hr, hnr⟩ := noReset_cons.mp hnr
    obtain ⟨u, is, hstep, hwf, hbytes, hevs, -⟩ := step_parses hinv hin hr
    obtain ⟨t, js, hrun, hwf', hbytes', hevs'⟩ :=
      ih (everyStepKeepsTheInvariants s u hinv hstep) (inputs_of_step hstep hin) hnr
    rw [(step_cfg_inputs hstep).1] at hwf' hevs'
    refine ⟨t, is ++ js, (run_succ_of_next hstep _).trans hrun, List.forall_mem_append.mpr ⟨hwf, hwf'⟩, ?_, ?_⟩
    · rw [consumed_cons, ← List.append_assoc, hbytes, List.append_assoc, hbytes', List.flatMap_append, List.append_assoc]
    · rw [List.length_cons, eventTrace_succ_of_next hstep, hevs, hevs', List.flatMap_append]

/-! ### A frame from IDLE (R100) -/

/-- The bytes of one frame, read as instructions and a frame in progress, are that frame alone. -/
theorem eq_singleton_of_encode {t : State} {i : Instr} {is : List Instr} (hinv : t.Inv) (hi : i.wf t.cfg = true)
    (hwf : ∀ j ∈ is, j.wf t.cfg = true) (h : encode i = is.flatMap encode ++ t.received) : is = [i] ∧ t.st = .idle := by
  obtain ⟨is', rfl, hnil⟩ := eq_cons_of_encode_append hinv hi hwf ((List.append_nil _).trans h)
  obtain ⟨his, hrec⟩ := List.append_eq_nil_iff.mp hnil.symm
  exact ⟨congrArg _ (flatMap_encode_eq_nil_iff.mp his), idle_iff_received_eq_nil.mpr hrec⟩

/-- No proper part of a frame's bytes, from the first on, is a list of instructions (R61). -/
theorem not_flatMap_encode_of_proper_part {c : Config} {i : Instr} {is : List Instr} {more : List Byte}
    (hi : i.wf c = true) (hwf : ∀ j ∈ is, j.wf c = true) (hne : is ≠ []) (hmore : more ≠ []) :
    is.flatMap encode ++ more ≠ encode i := by
  intro h
  cases is with
  | nil => exact hne rfl
  | cons j js =>
    rw [List.flatMap_cons, List.append_assoc, ← List.append_nil (encode i)] at h
    obtain ⟨-, hnil⟩ := encode_append_inj (hwf j (by simp)) hi h
    exact hmore (List.append_eq_nil_iff.mp hnil).2

/-- After a proper part of a frame's bytes, of which there is at least one, a parser that began in IDLE is not in IDLE. -/
theorem not_idle_of_proper_part {s t : State} {i : Instr} {ports rest : List PortSample} {more : List Byte}
    (hst : s.st = .idle) (hwf : i.wf s.cfg = true) (hin : s.inputs = ports ++ rest) (hnr : noReset ports = true)
    (hrun : run ports.length s = .next t) (hsome : consumed ports ≠ []) (hmore : more ≠ [])
    (hbytes : consumed ports ++ more = encode i) : t.st ≠ .idle := by
  intro hidle
  obtain ⟨t', is, hrun', hwf', hparse, -⟩ := run_parses (.of_idle hst) hin hnr
  cases hrun.symm.trans hrun'
  rw [received_of_idle hst, received_of_idle hidle, List.nil_append, List.append_nil] at hparse
  have hne : is ≠ [] := fun h => hsome (hparse.trans (flatMap_encode_eq_nil_iff.mpr h))
  exact not_flatMap_encode_of_proper_part hwf hwf' hne hmore (hparse ▸ hbytes)

theorem consumed_take_append_drop (ports : List PortSample) (k : Nat) :
    consumed (ports.take k) ++ consumed (ports.drop k) = consumed ports := by
  rw [consumed, consumed, ← List.filterMap_append, List.take_append_drop, consumed]

/-- Settles O52: a run reads the bytes delivered as instructions and a frame in progress, and that reading is unique; for the
whole frame it is the frame alone, and for a proper part it leaves a frame in progress. -/
theorem frameFromIdleCompletes : Obligations.FrameFromIdleCompletes := by
  intro s i ports rest hst hwf _ hin hnr hbytes
  have hinv : s.Inv := .of_idle hst
  obtain ⟨t, is, hrun, hwf', hparse, hevs⟩ := run_parses hinv hin hnr
  rw [received_of_idle hst, List.nil_append, hbytes] at hparse
  have hcfg := run_cfg hrun
  obtain ⟨rfl, hidle⟩ := eq_singleton_of_encode (run_inv hinv hrun) (hcfg ▸ hwf) (hcfg ▸ hwf') hparse
  rw [List.flatMap_singleton] at hevs
  refine ⟨⟨t, hrun, hidle, hcfg, by rw [run_inputs hrun, hin, List.drop_left]⟩,
    fun hv => hevs.trans (if_pos hv), fun hv => hevs.trans (if_neg hv), ?_⟩
  intro k u hrunk hsome hshort hk
  have hin' : s.inputs = ports.take k ++ (ports.drop k ++ rest) := by
    rw [← List.append_assoc, List.take_append_drop, hin]
  have hsplit := (consumed_take_append_drop ports k).trans hbytes
  have hmore : consumed (ports.drop k) ≠ [] := fun h => by
    rw [← hsplit, h, List.append_nil] at hshort
    exact Nat.lt_irrefl _ hshort
  rw [← List.length_take_of_le hk] at hrunk
  exact not_idle_of_proper_part hst hwf hin' (noReset_take hnr k) hrunk hsome hmore hsplit

/-! ### The way back to IDLE (R102) -/

/-- A run without reset passes through IDLE, or every byte it delivers joins the frame in progress. -/
theorem run_idle_or_received {s : State} {ports rest : List PortSample} (hinv : s.Inv) (hin : s.inputs = ports ++ rest)
    (hnr : noReset ports = true) :
    (∃ k t, k ≤ ports.length ∧ run k s = .next t ∧ t.st = .idle) ∨
    ∃ t, run ports.length s = .next t ∧ t.received = s.received ++ consumed ports := by
  induction ports generalizing s with
  | nil => exact .inr ⟨s, rfl, (List.append_nil _).symm⟩
  | cons p ports ih =>
    obtain ⟨hr, hnr⟩ := noReset_cons.mp hnr
    obtain ⟨u, is, hstep, -, hbytes, -, rfl | hidle⟩ := step_parses hinv hin hr
    · rcases ih (everyStepKeepsTheInvariants s u hinv hstep) (inputs_of_step hstep hin) hnr with
        ⟨k, t, hk, hrun, hidle⟩ | ⟨t, hrun, ht⟩
      · exact .inl ⟨k + 1, t, Nat.succ_le_succ hk, (run_succ_of_next hstep k).trans hrun, hidle⟩
      · refine .inr ⟨t, (run_succ_of_next hstep _).trans hrun, ?_⟩
        rw [ht, consumed_cons, ← List.append_assoc, hbytes, List.flatMap_nil, List.nil_append]
    · exact .inl ⟨1, u, by simp, run_succ_of_next hstep 0, hidle⟩

theorem received_length_pos {s : State} (h : s.st ≠ .idle) : 0 < s.received.length :=
  List.length_pos_of_ne_nil (mt idle_iff_received_eq_nil.mpr h)

/-- Settles O54: a frame in progress outside IDLE has at least its opcode, and has no room for four bytes more. -/
theorem fourBytesPassThroughIdle : Obligations.FourBytesPassThroughIdle := by
  intro s ports rest hinv hin hnr hlen
  by_cases hst : s.st = .idle
  · exact ⟨0, s, Nat.zero_le _, rfl, hst⟩
  rcases run_idle_or_received hinv hin hnr with hidle | ⟨t, -, ht⟩
  · exact hidle
  · have hfull := received_length_le t
    have hpos := received_length_pos hst
    rw [ht, List.length_append, hlen] at hfull
    omega

theorem unregisteredByte_wf_FF (c : Config) : (Instr.unregisteredByte 0xFF#8).wf c = true := rfl

theorem frameEvents_unregisteredByte (c : Config) (b : Byte) : frameEvents c (.unregisteredByte b) = [] :=
  if_neg (Option.some_ne_none _).symm

/-- Bytes 0xFF, read as instructions and a frame in progress, are unregistered bytes and no frame (R91, WF3). -/
theorem silent_of_forall_eq_FF {t : State} {bs : List Byte} {is : List Instr} (hinv : t.Inv)
    (hwf : ∀ j ∈ is, j.wf t.cfg = true) (hFF : ∀ b ∈ bs, b = 0xFF#8) (h : bs = is.flatMap encode ++ t.received) :
    is.flatMap (frameEvents t.cfg) = [] ∧ t.st = .idle := by
  induction bs generalizing is with
  | nil =>
    obtain ⟨his, hrec⟩ := List.append_eq_nil_iff.mp h.symm
    rw [flatMap_encode_eq_nil_iff.mp his]
    exact ⟨rfl, idle_iff_received_eq_nil.mpr hrec⟩
  | cons b bs ih =>
    obtain ⟨rfl, htail⟩ := List.forall_mem_cons.mp hFF
    obtain ⟨is', rfl, hrest⟩ := eq_cons_of_encode_append hinv (unregisteredByte_wf_FF t.cfg) hwf h
    obtain ⟨hsilent, hidle⟩ := ih (fun j hj => hwf j (List.mem_cons_of_mem _ hj)) htail hrest
    rw [List.flatMap_cons, frameEvents_unregisteredByte, hsilent]
    exact ⟨rfl, hidle⟩

/-- A frame shows at most one dispatch (R131). -/
theorem frameEvents_dispatches_le (c : Config) (i : Instr) : ((frameEvents c i).filter Event.isDispatch).length ≤ 1 := by
  rw [frameEvents]
  split
  · rw [(filter_isDispatch_frame c i).1]
    exact Nat.le_refl _
  · exact Nat.zero_le _

/-- The instruction that a frame in progress begins ends after the bytes received. -/
theorem suffix_of_received_append {s : State} {j : Instr} {x y : List Byte} (hinv : s.Inv) (hj : j.wf s.cfg = true)
    (h : s.received ++ x = encode j ++ y) : ∃ z, x = z ++ y := by
  rcases List.append_eq_append_iff.mp h with ⟨z, -, hx⟩ | ⟨z, hrec, -⟩
  · exact ⟨z, hx⟩
  · exact absurd (hrec ▸ decode_encode_append hj z) (decode_received_ne_ok hinv j z)

/-- Settles O55: four bytes 0xFF complete the frame in progress, if there is one, and those left over are unregistered. -/
theorem fourUnregisteredBytesReachIdle : Obligations.FourUnregisteredBytesReachIdle := by
  intro s ports rest hinv hin hnr hbytes
  obtain ⟨t, is, hrun, hwf, hparse, hevs⟩ := run_parses hinv hin hnr
  have htinv := run_inv hinv hrun
  have hFF : ∀ b ∈ consumed ports, b = 0xFF#8 := fun b hb => List.eq_of_mem_replicate (hbytes ▸ hb)
  rw [← run_cfg hrun] at hwf hevs
  by_cases hst : s.st = .idle
  · rw [received_of_idle hst, List.nil_append] at hparse
    obtain ⟨hsilent, hidle⟩ := silent_of_forall_eq_FF htinv hwf hFF hparse
    rw [hevs, hsilent]
    exact ⟨⟨t, hrun, hidle⟩, Nat.zero_le _, fun _ => rfl⟩
  cases is with
  | nil =>
    have hfull := received_length_le t
    have hpos := received_length_pos hst
    have hlen : s.received.length + 4 = t.received.length := by
      simpa [hbytes] using congrArg List.length hparse
    omega
  | cons j js =>
    obtain ⟨hj, hjs⟩ := List.forall_mem_cons.mp hwf
    rw [List.flatMap_cons, List.append_assoc] at hparse
    obtain ⟨z, hz⟩ := suffix_of_received_append hinv (run_cfg hrun ▸ hj) hparse
    obtain ⟨hsilent, hidle⟩ :=
      silent_of_forall_eq_FF htinv hjs (fun b hb => hFF b (hz ▸ List.mem_append_right z hb)) rfl
    rw [hevs, List.flatMap_cons, hsilent, List.append_nil]
    exact ⟨⟨t, hrun, hidle⟩, frameEvents_dispatches_le _ _, fun h => absurd h hst⟩

end Sys2Proof.Machine
end

section
/-! PROOFS. The family 42_checksum.md: the checksum (R110), the accumulator's comparison (R111), the form with all bytes of a
frame (R113), the silent drop (R114), and which corruptions go undetected (R115). -/

namespace Sys2Proof.Machine

/-! ### The exclusive OR of a list of bytes, and its bits -/

theorem xorAll_cons (b : Byte) (bs : List Byte) : xorAll (b :: bs) = b ^^^ xorAll bs := by
  rw [xorAll, List.foldl_cons, BitVec.xor_comm, List.foldl_assoc, xorAll]

theorem xorAll_concat (bs : List Byte) (b : Byte) : xorAll (bs ++ [b]) = xorAll bs ^^^ b :=
  List.foldl_concat ..

/-- The exclusive OR of the changes made to a list of bytes is the change of its exclusive OR. -/
theorem xorAll_zipWith_xor {as bs : List Byte} (h : as.length = bs.length) :
    xorAll (List.zipWith (· ^^^ ·) as bs) = xorAll as ^^^ xorAll bs := by
  induction as generalizing bs with
  | nil =>
    cases List.length_eq_zero_iff.mp h.symm
    rfl
  | cons a as ih =>
    cases bs with
    | nil => cases h
    | cons b bs =>
      rw [List.zipWith_cons_cons, xorAll_cons, xorAll_cons, xorAll_cons, ih (Nat.succ.inj h)]
      ac_rfl

/-- A bit of the exclusive OR is the parity of that bit over the bytes. -/
theorem getLsbD_xorAll (bs : List Byte) (k : Nat) :
    (xorAll bs).getLsbD k = decide (bs.countP (·.getLsbD k) % 2 = 1) := by
  induction bs with
  | nil => simp [xorAll]
  | cons b bs ih =>
    rw [xorAll_cons, BitVec.getLsbD_xor, ih, List.countP_cons]
    cases b.getLsbD k with
    | false => simp
    | true =>
      rcases Nat.mod_two_eq_zero_or_one (bs.countP (·.getLsbD k)) with h | h <;> simp [Nat.add_mod, h]

/-- The exclusive OR is zero exactly when every bit is set in an even number of the bytes. -/
theorem xorAll_eq_zero_iff {bs : List Byte} :
    xorAll bs = 0#8 ↔ ∀ k, k < 8 → bs.countP (·.getLsbD k) % 2 = 0 := by
  simp only [BitVec.eq_of_getLsbD_eq_iff, getLsbD_xorAll, BitVec.getLsbD_zero, decide_eq_false_iff_not,
    Nat.mod_two_ne_one]

/-- The bytes set in bit `k` of a change are those that differ in bit `k`. -/
theorem countP_getLsbD_zipWith_xor (as bs : List Byte) (k : Nat) :
    (List.zipWith (· ^^^ ·) as bs).countP (·.getLsbD k) =
      (as.zip bs).countP (fun p => p.1.getLsbD k != p.2.getLsbD k) := by
  rw [← List.map_uncurry_zip_eq_zipWith, List.countP_map]
  exact List.countP_congr fun p _ => by simp [Function.uncurry]

/-- Lists of one length have one exclusive OR exactly when every bit differs at an even number of places. -/
theorem xorAll_eq_xorAll_iff {as bs : List Byte} (h : as.length = bs.length) :
    xorAll as = xorAll bs ↔
      ∀ k, k < 8 → (as.zip bs).countP (fun p => p.1.getLsbD k != p.2.getLsbD k) % 2 = 0 := by
  rw [← BitVec.xor_eq_zero_iff, ← xorAll_zipWith_xor h, xorAll_eq_zero_iff]
  simp only [countP_getLsbD_zipWith_xor]

/-! ### The checksum test of a frame (R110, R111, R113) -/

/-- Settles O12: length by length the checksum evaluates to its value, and as a list it is `checksum_eq_xorAll`. -/
theorem checksumIsXorOfOpcodeAndPayload : Obligations.ChecksumIsXorOfOpcodeAndPayload :=
  fun op => ⟨rfl, fun _ => rfl, fun _ _ => rfl, fun _ _ _ => rfl, checksum_eq_xorAll op⟩

theorem checksumOK_iff {acc b : Byte} : checksumOK acc b = true ↔ acc = b := beq_iff_eq

theorem valid_iff_of_chk {i : Instr} {chk : Byte} (h : i.chk? = some chk) :
    i.valid ↔ xorAll (i.opcode :: i.payload.bytes) = chk := by
  rw [Instr.valid, h, Option.some_inj, eq_comm]

/-- R113. -/
theorem valid_iff_xorAll_encode_eq_zero {i : Instr} (h : i.chk?.isSome = true) : i.valid ↔ xorAll (encode i) = 0#8 := by
  obtain ⟨chk, hchk⟩ := Option.isSome_iff_exists.mp h
  rw [valid_iff_of_chk hchk, encode_of_frame hchk, ← List.cons_append, xorAll_concat, BitVec.xor_eq_zero_iff]

/-- Settles O13: the exclusive OR of all the bytes is that of opcode and payload, and the checksum byte. -/
theorem validFramesXorToZero : Obligations.ValidFramesXorToZero := fun _ => valid_iff_xorAll_encode_eq_zero

/-- Settles O14: the second frame is valid exactly when its bytes have the exclusive OR of the first frame's, which is zero. -/
theorem undetectedCorruptionsFlipEvenly : Obligations.UndetectedCorruptionsFlipEvenly := by
  intro i j hi hj hlen hvalid
  have hzero : xorAll (encode i) = 0#8 := (valid_iff_xorAll_encode_eq_zero hi).mp hvalid
  rw [valid_iff_xorAll_encode_eq_zero hj, ← xorAll_eq_xorAll_iff hlen, hzero, eq_comm]

/-- In CHECK the registers and the checksum byte are the bytes of a frame, and the accumulator is the exclusive OR of its opcode
and payload (I1, I3 and I4 of R28). -/
theorem State.Inv.candidate_frame {s : State} (hinv : s.Inv) (hst : s.st = .check) (b : Byte) :
    ∃ i, decode s.cfg (candidateBytes s b) = .ok (i, []) ∧ i.chk? = some b ∧
      s.acc = xorAll (i.opcode :: i.payload.bytes) := by
  have hne : s.st ≠ .idle := by simp [hst]
  obtain ⟨cls, ht⟩ := hinv.i1 hne
  rw [← first_len s.buf s.len] at ht
  obtain ⟨i, hi⟩ := instrOf_isSome b ht
  obtain ⟨hop, hp, hchk, hwf⟩ := instrOf_eq_some hi ht
  exact ⟨i, decode_frame_bytes hwf hop hp hchk, hchk, by rw [hinv.acc_eq_xorAll hne, hinv.i3 hst, hop, hp]⟩

/-- Settles O15: the byte compared with the accumulator is compared with the exclusive OR of the frame's opcode and payload. -/
theorem accumulatorComparisonIsTheChecksumTest : Obligations.AccumulatorComparisonIsTheChecksumTest := by
  intro s b hinv hst
  obtain ⟨i, hdec, hchk, hacc⟩ := hinv.candidate_frame hst b
  exact ⟨i, hdec, hchk, by rw [valid_iff_of_chk hchk, ← hacc, checksumOK_iff], checksumOK_iff⟩

/-! ### A mismatch (R114) -/

theorem completeFrame_out_of_mismatch {s : State} {chk : Byte} (h : chk ≠ s.acc) (op : Byte) (p : Payload)
    (handler : List Event) : (completeFrame op p chk handler s).out = Outputs.zero := by
  rw [completeFrame_out, if_neg (mt checksumOK_iff.mp h.symm), ofEvents_nil]

/-- Settles O26: whatever the class, the instruction ends the frame, and the events it would show are withheld. -/
theorem mismatchedFrameIsDroppedInSilence : Obligations.MismatchedFrameIsDroppedInSilence := by
  intro i chk s hchk hne
  exact ⟨_, exec_frame hchk s, rfl, ⟨rfl, rfl, rfl, rfl, rfl, rfl, rfl⟩,
    by rw [completeFrame_out_of_mismatch hne, zero_events]⟩

end Sys2Proof.Machine
end

section
/-! PROOFS. The family 43_dispatch.md: the actuator encoder LinMap (R122, R133, R135), the index range (R132), and the events of
a frame whose checksum byte matches, class by class (R123 to R131). -/

namespace Sys2Proof.Machine

/-! ### The actuator encoder (R122, R133, D13) -/

/-- R122: flipping the sign bit adds 32768 to the signed value, since it moves bit 15 and keeps the bits below. -/
theorem xor_signBit_toNat (raw : Word16) : ((raw ^^^ 0x8000#16).toNat : Int) = raw.toInt + 32768 := by
  have hlow : (raw ^^^ 0x8000#16).toNat % 2 ^ 15 = raw.toNat % 2 ^ 15 := by
    rw [BitVec.toNat_xor, Nat.xor_mod_two_pow]; exact Nat.xor_zero _
  have hbit : (raw ^^^ 0x8000#16).toNat / 2 ^ 15 = raw.toNat / 2 ^ 15 ^^^ 1 := by
    rw [BitVec.toNat_xor, Nat.xor_div_two_pow]; rfl
  have hlt := raw.isLt
  rw [BitVec.toInt_eq_toNat_cond]
  split
  · rw [show raw.toNat / 2 ^ 15 = 0 by omega, Nat.zero_xor] at hbit
    omega
  · rw [show raw.toNat / 2 ^ 15 = 1 by omega, Nat.xor_self] at hbit
    omega

/-- A value in the range is its own clamp. -/
theorem clamp_of_mem {x lo hi : Word16} (hlo : lo.toNat ≤ x.toNat) (hhi : x.toNat ≤ hi.toNat) : clamp x lo hi = x := by
  simp [clamp, BitVec.ult, Nat.not_lt.mpr hlo, Nat.not_lt.mpr hhi]

/-- The quotient of R122 is at most the width of the range. -/
theorem linMap_quotient_le (u : Word16) (d : Nat) : u.toNat * d / 65535 ≤ d :=
  Nat.div_le_of_le_mul (Nat.mul_le_mul_right d (Nat.le_of_lt_succ u.isLt))

/-- R135: two 16-bit values have a 32-bit product, so the quotient of R122 is that of the whole numbers. -/
theorem linMap_quotient_toNat (u d : Word16) :
    ((u.setWidth 32 * d.setWidth 32) / 65535#32 : BitVec 32).toNat = u.toNat * d.toNat / 65535 := by
  have hprod : u.toNat * d.toNat < 2 ^ 32 := (Nat.mul_lt_mul'' u.isLt d.isLt).trans_eq (by norm_num)
  rw [BitVec.toNat_udiv, BitVec.toNat_mul, BitVec.toNat_setWidth_of_le (by decide),
    BitVec.toNat_setWidth_of_le (by decide), Nat.mod_eq_of_lt hprod]
  rfl

/-- R122, R135: the 16-bit sum does not wrap, and the clamp is idle. -/
theorem linMap_toNat {lo hi : Word16} (h : lo.toNat < hi.toNat) (raw : Word16) :
    (linMap raw lo hi).toNat = lo.toNat + (raw ^^^ 0x8000#16).toNat * (hi.toNat - lo.toNat) / 65535 := by
  have hhi := hi.isLt
  have hwidth : (hi - lo).toNat = hi.toNat - lo.toNat := BitVec.toNat_sub_of_le (Nat.le_of_lt h)
  have hquot := linMap_quotient_le (raw ^^^ 0x8000#16) (hi.toNat - lo.toNat)
  rw [linMap, clamp_of_mem] <;>
    rw [BitVec.toNat_add, BitVec.toNat_setWidth, linMap_quotient_toNat, hwidth] <;> omega

/-- Settles O16: LinMap in natural numbers, with the sign bit's flip read as an addition. -/
theorem linMapIsTheRoundedInterpolation : Obligations.LinMapIsTheRoundedInterpolation := by
  intro raw lo hi h
  rw [linMap_toNat h, ← xor_signBit_toNat, ← Int.ofNat_sub (Nat.le_of_lt h)]
  norm_cast

/-- R133. -/
theorem linMap_smallest {lo hi : Word16} (h : lo.toNat < hi.toNat) : linMap 0x8000#16 lo hi = lo := by
  apply BitVec.eq_of_toNat_eq
  rw [linMap_toNat h, BitVec.xor_self, BitVec.toNat_zero, Nat.zero_mul, Nat.zero_div, Nat.add_zero]

/-- R133: the largest signed value is read as 65535, which the division takes out again. -/
theorem linMap_largest {lo hi : Word16} (h : lo.toNat < hi.toNat) : linMap 0x7FFF#16 lo hi = hi := by
  apply BitVec.eq_of_toNat_eq
  have hu : (0x7FFF#16 ^^^ 0x8000#16).toNat = 65535 := rfl
  rw [linMap_toNat h, hu, Nat.mul_div_cancel_left _ (by decide), Nat.add_sub_of_le (Nat.le_of_lt h)]

/-- R133. -/
theorem linMap_mem {lo hi : Word16} (h : lo.toNat < hi.toNat) (raw : Word16) :
    lo.toNat ≤ (linMap raw lo hi).toNat ∧ (linMap raw lo hi).toNat ≤ hi.toNat := by
  have hquot := linMap_quotient_le (raw ^^^ 0x8000#16) (hi.toNat - lo.toNat)
  rw [linMap_toNat h]
  omega

/-- R133: flipping the sign bit turns the order of signed values into that of unsigned ones, which the division keeps. -/
theorem linMap_mono {lo hi v w : Word16} (h : lo.toNat < hi.toNat) (hvw : v.toInt ≤ w.toInt) :
    (linMap v lo hi).toNat ≤ (linMap w lo hi).toNat := by
  have hu : (v ^^^ 0x8000#16).toNat ≤ (w ^^^ 0x8000#16).toNat := by
    have hv := xor_signBit_toNat v
    have hw := xor_signBit_toNat w
    omega
  rw [linMap_toNat h, linMap_toNat h]
  exact Nat.add_le_add_left (Nat.div_le_div_right (Nat.mul_le_mul_right _ hu)) _

/-- Settles O17, one property of R133 after the other. -/
theorem linMapIsMonotonicExactAndBounded : Obligations.LinMapIsMonotonicExactAndBounded :=
  fun _ _ h => ⟨linMap_smallest h, linMap_largest h, linMap_mem h, fun _ _ => linMap_mono h⟩

/-! ### The index range (R132, D12) -/

theorem inRange_iff {idx : Byte} {n : Nat} : inRange idx n = true ↔ idx.toNat < n := by
  rw [inRange_eq_decide, decide_eq_true_iff]

/-- Settles O18: widening the index to 16 bits keeps its value. -/
theorem indexRangeIsUnsignedFromZero : Obligations.IndexRangeIsUnsignedFromZero := fun _ _ _ => inRange_iff

/-! ### A frame whose checksum byte matches (R120 to R131) -/

/-- R96, R120: a matching checksum byte ends the frame, drives its `Dispatch` and its handler's event, and leaves the rest. -/
theorem exec_of_match {i : Instr} {s : State} (h : i.chk? = some s.acc) :
    ∃ t, exec i s = .next t ∧ t.st = .idle ∧ SameButStOut s t ∧
      t.out = Outputs.ofEvents (frameDispatch i :: handlerEvents s.cfg i) := by
  refine ⟨_, exec_frame h s, rfl, ⟨rfl, rfl, rfl, rfl, rfl, rfl, rfl⟩, ?_⟩
  rw [completeFrame_out, if_pos (checksumOK_iff.mpr rfl), dispatchEvent_eq_frameDispatch]

/-- The same, with the events read back from the ports (R22). -/
theorem exec_events_of_match {i : Instr} {s : State} (h : i.chk? = some s.acc) :
    ∃ t, exec i s = .next t ∧ t.st = .idle ∧ SameButStOut s t ∧
      t.out.events = frameDispatch i :: handlerEvents s.cfg i := by
  obtain ⟨t, hexec, hst, hsame, hout⟩ := exec_of_match h
  exact ⟨t, hexec, hst, hsame, by rw [hout, events_of_frame]⟩

/-- Settles O27: the frame's own event is the one `Dispatch`, and its handler has at most one event. -/
theorem validatedFrameDispatchesExactlyOnce : Obligations.ValidatedFrameDispatchesExactlyOnce := by
  intro i s h
  obtain ⟨t, hexec, -, -, hevents⟩ := exec_events_of_match h
  obtain ⟨hdisp, hcoll⟩ := filter_isDispatch_frame s.cfg i
  obtain ⟨hlen, -⟩ := handlerEvents_shape s.cfg i
  exact ⟨t, hexec, by rw [hevents, hdisp]; rfl, by rw [hevents, hcoll]; exact hlen⟩

/-- R123: the handler's index test is `InRange`. -/
theorem handlerEvents_motor (c : Config) (op idx : Byte) (raw : Word16) (chk : Byte) :
    handlerEvents c (.motor op idx raw chk) = motorHandler c idx raw := by
  simp only [handlerEvents, motorHandler, inRange_iff]

/-- R124. -/
theorem handlerEvents_servo (c : Config) (op idx : Byte) (raw : Word16) (chk : Byte) :
    handlerEvents c (.servo op idx raw chk) = servoHandler c idx raw := by
  simp only [handlerEvents, servoHandler, inRange_iff]

/-- Settles O19: the handler's event, and LinMap's endpoints in the motor range, which rises (WF8). -/
theorem motorFrameWritesItsMotor : Obligations.MotorFrameWritesItsMotor := by
  intro op idx raw s
  obtain ⟨hrange, -⟩ := ranges_wf s.cfg
  obtain ⟨t, hexec, hst, hsame, hevents⟩ := exec_events_of_match (i := .motor op idx raw s.acc) (s := s) rfl
  rw [handlerEvents_motor] at hevents
  exact ⟨t, hexec, hst, hsame, hevents, linMap_smallest hrange, linMap_largest hrange⟩

/-- Settles O20: the handler's event, in the servo range. -/
theorem servoFrameWritesItsServo : Obligations.ServoFrameWritesItsServo := by
  intro op idx raw s
  obtain ⟨t, hexec, hst, hsame, hevents⟩ := exec_events_of_match (i := .servo op idx raw s.acc) (s := s) rfl
  rw [handlerEvents_servo] at hevents
  exact ⟨t, hexec, hst, hsame, hevents⟩

/-- Settles O21: each of the two forms has its own event, whatever was set before. -/
theorem lightsFramesSetTheLights : Obligations.LightsFramesSetTheLights :=
  fun op s => ⟨exec_events_of_match (i := .lightsOn op s.acc) rfl, exec_events_of_match (i := .lightsOff op s.acc) rfl⟩

/-- Settles O22: each of the two forms has its own event. -/
theorem masterFramesSetTheMaster : Obligations.MasterFramesSetTheMaster :=
  fun op s => ⟨exec_events_of_match (i := .masterOn op s.acc) rfl, exec_events_of_match (i := .masterOff op s.acc) rfl⟩

/-- A SAMPLE frame's payload is its argument, if it has one (R129). -/
theorem frameDispatch_sample (op : Byte) (arg : Option Byte) (chk : Byte) :
    frameDispatch (.sample op arg chk) = .dispatch op (if arg.isSome then 1#2 else 0#2) (arg.getD 0#8) 0#8 0#8 := by
  cases arg <;> rfl

/-- R8 (WF6), R129: the configuration's SAMPLE_LEN says which of its two forms a SAMPLE instruction has. -/
theorem sample_arg_iff {c : Config} {op : Byte} {arg : Option Byte} {chk : Byte}
    (h : (Instr.sample op arg chk).wf c = true) : arg.isSome = true ↔ c.raw.sampleLen = 1 := by
  cases arg with
  | none =>
    have hlen : 0 = c.raw.sampleLen := sample_len (beq_iff_eq.mp h) rfl
    simp [← hlen]
  | some a =>
    have hlen : 1 = c.raw.sampleLen := sample_len (beq_iff_eq.mp h) rfl
    simp [← hlen]

/-- Settles O23: the sample port is driven last, by the argument, and the form is that of the table's length. -/
theorem sampleFrameTriggersASample : Obligations.SampleFrameTriggersASample := by
  refine fun op arg s => ⟨?_, sample_arg_iff⟩
  obtain ⟨t, hexec, hst, hsame, hout⟩ := exec_of_match (i := .sample op arg s.acc) (s := s) rfl
  refine ⟨t, hexec, hst, hsame, ?_, ?_⟩
  · rw [hout, events_of_frame, frameDispatch_sample]
    rfl
  · rw [hout]
    exact ⟨rfl, rfl, rfl⟩

/-- Settles O24: GENERIC has no handler. -/
theorem genericFrameOnlyDispatches : Obligations.GenericFrameOnlyDispatches :=
  fun op p s => exec_events_of_match (i := .generic op p s.acc) rfl

end Sys2Proof.Machine
end

section
/-! PROOFS. The family 60_exceptions.md: no schedule of inputs stops the block (R150). -/

namespace Sys2Proof.Machine

/-- From a state of R28 every run answers a next state: each cycle answers one, which has the invariants again. -/
theorem State.Inv.run_next {s : State} (h : s.Inv) (k : Nat) : ∃ t, run k s = .next t := by
  induction k generalizing s with
  | zero => exact ⟨s, rfl⟩
  | succ k ih =>
    obtain ⟨u, hstep⟩ := h.step_next
    obtain ⟨t, hrun⟩ := ih (everyStepKeepsTheInvariants s u h hstep)
    exact ⟨t, (run_succ_of_next hstep k).trans hrun⟩

/-- Settles O47: the run answers a state, and runs keep the invariants. -/
theorem noInputEverStopsTheBlock : Obligations.NoInputEverStopsTheBlock := by
  intro k s hinv
  obtain ⟨t, hrun⟩ := hinv.run_next k
  exact ⟨t, hrun, run_inv hinv hrun⟩

end Sys2Proof.Machine
end

section
/-! PROOFS. The family 70_reset_and_hazards.md: what a reset cycle does (R170) and discards (R171), and that gaps between the
bytes do not matter (R179). -/

namespace Sys2Proof.Machine

/-! ### Reset (R170, R171) -/

/-- Settles O42: the handshake takes no byte, and the reset state keeps only the configuration and the later inputs. -/
theorem resetInputResetsEveryRegister : Obligations.ResetInputResetsEveryRegister := by
  intro s p rest hin hr
  obtain ⟨hp, hadv⟩ := currentPorts_of_inputs hin
  have hready : rxReady p = false := by simp [rxReady, hr]
  refine ⟨hready, rxByte_of_reset hr, ?_⟩
  rw [step_of_reset (by rw [hp, hr]), resetRegisters, hadv, advance_cfg]

/-- Settles O43: the reset cycle itself shows no event, and the run goes on from the reset state. -/
theorem resetDiscardsTheFrameInProgress : Obligations.ResetDiscardsTheFrameInProgress := by
  intro s p rest k hin hr
  obtain ⟨-, -, hstep⟩ := resetInputResetsEveryRegister s p rest hin hr
  rw [eventTrace_succ_of_next hstep, resetWith_out, zero_events, List.nil_append]

/-! ### Gaps between bytes (R179) -/

/-- The untimed model of R179: R97's step on each consumed byte, with the steps between them left out. -/
def ruleRun (c : Config) (r : Regs) : List Byte → Regs × List Event
  | [] => (r, [])
  | b :: bs => ((ruleRun c (ruleStep c r (some b)).1 bs).1,
      (ruleStep c r (some b)).2 ++ (ruleRun c (ruleStep c r (some b)).1 bs).2)

/-- The events of the first byte come before those of the later ones. -/
theorem ruleRun_cons {c : Config} {r r' r'' : Regs} {b : Byte} {bs : List Byte} {evs evs' : List Event}
    (hstep : ruleStep c r (some b) = (r', evs)) (hrest : ruleRun c r' bs = (r'', evs')) :
    ruleRun c r (b :: bs) = (r'', evs ++ evs') := by
  rw [ruleRun, hstep, hrest]

/-- From every state of R28, a run without reset ends with the registers, and shows the events, that the untimed model gives
for the bytes consumed. -/
theorem run_eq_ruleRun {s : State} {ports rest : List PortSample} (hinv : s.Inv) (hin : s.inputs = ports ++ rest)
    (hnr : noReset ports = true) : ∃ t, run ports.length s = .next t ∧
      (t.regs, eventTrace ports.length s) = ruleRun s.cfg s.regs (consumed ports) := by
  induction ports generalizing s with
  | nil => exact ⟨s, rfl, rfl⟩
  | cons p ports ih =>
    obtain ⟨hr, hnr⟩ := noReset_cons.mp hnr
    obtain ⟨hp, -⟩ := currentPorts_of_inputs hin
    obtain ⟨u, hstep, hrule, hcfg, -⟩ := stepIsTheSpecifiedStepFunction s hinv (by rw [hp, hr])
    obtain ⟨t, hrun, hrest⟩ := ih (everyStepKeepsTheInvariants s u hinv hstep) (inputs_of_step hstep hin) hnr
    refine ⟨t, (run_succ_of_next hstep _).trans hrun, ?_⟩
    rw [hp] at hrule
    rw [hcfg] at hrest
    rw [List.length_cons, eventTrace_succ_of_next hstep]
    cases hrx : rxByte p with
    | none =>
      rw [hrx] at hrule
      obtain ⟨hregs, hevs⟩ : u.regs = s.regs ∧ u.out.events = [] := Prod.mk.inj hrule
      rw [consumed, List.filterMap_cons_none hrx, hevs, ← hregs]
      exact hrest
    | some b =>
      rw [hrx] at hrule
      rw [consumed, List.filterMap_cons_some hrx]
      exact (ruleRun_cons hrule.symm hrest.symm).symm

/-- Settles O51: both runs are the untimed model's run on the same bytes. -/
theorem gapsBetweenBytesDoNotMatter : Obligations.GapsBetweenBytesDoNotMatter := by
  intro s u p q restS restU hinv hregs hcfg hs hu hp hq hbytes
  obtain ⟨s', hrunS, hruleS⟩ := run_eq_ruleRun hinv hs hp
  obtain ⟨u', hrunU, hruleU⟩ := run_eq_ruleRun (hinv.of_regs_eq hregs.symm hcfg.symm) hu hq
  rw [hregs, hcfg, hbytes, ← hruleU] at hruleS
  obtain ⟨hregs', hevents⟩ := Prod.mk.inj hruleS
  exact ⟨hevents, s', u', hrunS, hrunU, hregs'⟩

end Sys2Proof.Machine
end

section
/-! PROOFS. The family 'other': frames written out byte by byte (R62, 95_test_vectors.md), the placed opcode-table word
(notes/assumptions/4.md), and the state after reset (R20, R29). -/

namespace Sys2Proof.Machine

/-! ### A placed frame meets the invariants of R28 -/

/-- The collected bytes of a payload are all of its bytes. -/
theorem bytes_eq_map_bufOf_get (p : Payload) : p.bytes = (List.range p.len.toNat).map (bufOf p).get := by
  rw [← first_bytes, bufOf_first]

/-- The buffer of a payload is 0 from the payload's length on. -/
theorem bufOf_get_of_len_le {p : Payload} {i : Nat} (hp : p.len.toNat ≤ i) (hi : i ≤ 2) : (bufOf p).get i = 0#8 := by
  cases p with
  | f0 => interval_cases i <;> rfl
  | f1 =>
    have : 1 ≤ i := hp
    interval_cases i <;> rfl
  | f2 =>
    have : 2 ≤ i := hp
    interval_cases i
    rfl
  | f3 =>
    have : 3 ≤ i := hp
    omega

theorem placeFrame_inv {s : State} {cls : CmdClass} {op : Byte} {p : Payload} (ht : table s.cfg op = some ⟨cls, p.len⟩)
    (chk : Byte) : (placeFrame op p chk s).Inv where
  i1 _ := ⟨cls, ht⟩
  i2 hst := by simp at hst
  i3 _ := rfl
  i4 _ := by
    rw [placeFrame_acc, checksum_eq_foldl, bytes_eq_map_bufOf_get, List.foldl_map]
    rfl
  i5 _ _ hp hi := bufOf_get_of_len_le hp hi

/-- The registers of a placed frame and its checksum byte are the frame's bytes (R60). -/
theorem candidateBytes_placeFrame (op : Byte) (p : Payload) (chk : Byte) (s : State) :
    candidateBytes (placeFrame op p chk s) chk = op :: (p.bytes ++ [chk]) := by
  rw [candidateBytes, placeFrame_opc, placeFrame_buf, placeFrame_len, bufOf_first]

/-- The step after a frame of the configuration is placed is that frame (R96). -/
theorem step_placeFrame {s : State} {i : Instr} {chk : Byte} (hwf : i.wf s.cfg = true) (hchk : i.chk? = some chk) :
    step (placeFrame i.opcode i.payload chk s) = exec i (advance (placeFrame i.opcode i.payload chk s)) := by
  obtain ⟨hrx, -⟩ := rxByte_of_inputs (placeFrame_inputs i.opcode i.payload chk s)
  refine step_of_decode hrx rfl ?_
  rw [candidateBytes_placeFrame]
  exact decode_frame_bytes hwf rfl rfl hchk

/-! ### What `placeBytes` places -/

theorem placeBytes_of_frame {s : State} {bytes rest : List Byte} {i : Instr} {chk : Byte}
    (hdec : decode s.cfg bytes = .ok (i, rest)) (hchk : i.chk? = some chk) :
    placeBytes bytes s = placeFrame i.opcode i.payload chk s := by
  simp only [placeBytes, hdec, hchk]

theorem placeBytes_of_unregistered {s : State} {bytes rest : List Byte} {b : Byte}
    (hdec : decode s.cfg bytes = .ok (.unregisteredByte b, rest)) :
    placeBytes bytes s = { s with st := .idle, inputs := PortSample.byte b :: s.inputs } := by
  simp only [placeBytes, hdec]
  rfl

/-- Only an unregistered byte has no checksum byte (R60, R91). -/
theorem chk?_eq_none_iff {i : Instr} : i.chk? = none ↔ ∃ b, i = .unregisteredByte b := by
  cases i <;> simp [Instr.chk?]

/-- With bytes placed that begin with an instruction, the next step is that instruction, from a state of R28. -/
theorem placeBytes_runs_next {s : State} {bytes rest : List Byte} {i : Instr}
    (hdec : decode s.cfg bytes = .ok (i, rest)) :
    (placeBytes bytes s).Inv ∧ step (placeBytes bytes s) = exec i (advance (placeBytes bytes s)) ∧
    (advance (placeBytes bytes s)).inputs = s.inputs ∧ (placeBytes bytes s).cfg = s.cfg := by
  obtain ⟨hwf, -⟩ := encodeOfDecodeIsTheBytes s.cfg bytes i rest hdec
  cases hchk : i.chk? with
  | some chk =>
    obtain ⟨cls, ht, -⟩ := instrOf_of_wf hwf hchk
    rw [placeBytes_of_frame hdec hchk]
    exact ⟨placeFrame_inv ht chk, step_placeFrame hwf hchk, rfl, rfl⟩
  | none =>
    obtain ⟨b, rfl⟩ := chk?_eq_none_iff.mp hchk
    rw [placeBytes_of_unregistered hdec]
    exact ⟨.of_idle rfl, step_of_unregistered rfl rfl (beq_iff_eq.mp hwf), rfl, rfl⟩

/-- Settles O39: the word is placed by its five bytes. -/
theorem placedWordRunsNext : Obligations.PlacedWordRunsNext := fun _ _ _ _ _ hdec => placeBytes_runs_next hdec

/-! ### Frames written out byte by byte -/

/-- Settles O6: each list is what its instruction encodes to, and the instruction's table entry evaluates, since R8 fixes the
three entries used under every configuration. -/
theorem writtenOutFramesDecode : Obligations.WrittenOutFramesDecode :=
  ⟨fun _ => ⟨decode_encode_append (i := .motor 0x10#8 0x02#8 0x31FF#16 0xDC#8) rfl [],
      decode_encode_append (i := .lightsOn 0x31#8 0x31#8) rfl [],
      decode_encode_append (i := .unregisteredByte 0xFF#8) rfl [0x31#8]⟩,
    decode_encode_append (i := .servo 0x20#8 0x01#8 0xC000#16 0xE1#8) rfl [],
    decode_encode_append (i := .lightsOff 0x30#8 0x30#8) rfl [],
    decode_encode_append (i := .masterOn 0x41#8 0x41#8) rfl [],
    decode_encode_append (i := .masterOff 0x40#8 0x40#8) rfl [],
    decode_encode_append (i := .sample 0x50#8 (some 0x07#8) 0x57#8) rfl [],
    decode_encode_append (i := .generic 0x60#8 (.f2 0xAA#8 0x55#8) 0x9F#8) rfl []⟩

/-! ### The state after reset (R20, R29) -/

/-- Settles O41: the registers are R20's reset column, and the output registers are zero, which shows no event and drives no
lane. -/
theorem resetStateHoldsTheResetValues : Obligations.ResetStateHoldsTheResetValues :=
  ⟨fun c => ⟨rfl, zero_events, zero_lanesQuiet, resetWith_cfg c⟩, rfl⟩

end Sys2Proof.Machine
end
